-- ==== Sys2Proof/Word.lean ====
section
/-! DEFINITION. The data types of the block (spec/00_scope.md rules R9, R10): bytes, 32-bit and 64-bit words,
and the 72-byte descriptor image. -/

namespace Sys2Proof

/-- One byte of an image or of host memory (00 R10). -/
abbrev Byte := BitVec 8

/-- `u32`, and the 32 bits of an `i32` (00 R9). -/
abbrev Word := BitVec 32

/-- `u64` (00 R9): `data_pointer` and host addresses. -/
abbrev DWord := BitVec 64

/-- A descriptor image: DESC_SIZE = 72 bytes, indexed from 0 (00 R10, 10 R32). -/
abbrev Image := Vector Byte 72

end Sys2Proof
end

