-- ==== Sys2Proof/Config.lean ====
section
/-! DEFINITION. The configuration of the block (00 R7, R8; 10 R33): the constants DOC fixes, the parameters it leaves open,
and the free values of the oracle and of the order between agents. A free value is an opaque constant with no body: no proof
can see what it is. -/

namespace Sys2Proof

/-- HOST_ENDIAN (00 R8, 20 R53). -/
inductive Endian where
  | little
  | big
  deriving DecidableEq, Repr

/-- DESC_LAYOUT (00 R8; 30 R71, R72). -/
inductive Layout where
  | abi
  | literal
  deriving DecidableEq, Repr

/-! ### Constants fixed by DOC (00 R7) -/

def Config.descSize : Nat := 72
def Config.descAlign : Nat := 8
def Config.maxAttempts : Nat := 50
def Config.pollDelayMs : Nat := 20
def Config.opcSendExtCsd : Word := 8
def Config.opcSendStatus : Word := 13
def Config.extcsdBytes : Nat := 512
def Config.stateProgramming : BitVec 4 := 7
def Config.ctlMajor : BitVec 8 := 179
def Config.ctlNr : BitVec 8 := 0
def Config.respWords : Nat := 4
def Config.ptrBits : Nat := 64

/-- The parameters DOC leaves open (00 R8), one record per configuration. They are constant for a run (10 R33). -/
structure Params where
  /-- HOST_ENDIAN -/
  endian : Endian
  /-- DESC_LAYOUT -/
  layout : Layout
  /-- DELAY_AFTER_LAST -/
  delayAfterLast : Bool
  /-- STATUS_ARG -/
  statusArg : Word
  /-- BUF_ADDR -/
  bufAddr : DWord
  /-- DIAG_LEVEL -/
  diagLevel : Nat
  /-- OS_ERR, the finite set of OS error codes, each as its 32 bits -/
  osErr : List Word
  deriving DecidableEq, Repr

/-- The ranges 00 R8 gives: BUF_ADDR is a non-zero multiple of 8, and every code of OS_ERR is non-zero. -/
def Params.inRange (c : Params) : Bool :=
  decide (c.bufAddr.toNat % 8 = 0) && decide (c.bufAddr ≠ 0) && c.osErr.all (fun e => decide (e ≠ 0))

/-! ### The OPEN parameters (00 R8: no default; log 4) -/

/-- STATUS_ARG (92 D18): any u32. -/
opaque Config.statusArg : Word

/-- BUF_ADDR (92 D19) is eight times one more than this number's residue: any non-zero multiple of 8 below 2^64. -/
opaque Config.bufSlot : Nat

/-- BUF_ADDR as an address. -/
def Config.bufAddr : DWord := BitVec.ofNat 64 (8 * (Config.bufSlot % (2 ^ 61 - 1) + 1))

/-- DIAG_LEVEL (92 D22): any natural number. -/
opaque Config.diagLevel : Nat

/-- OS_ERR (92 D23) is the non-zero codes of this list: any finite set of non-zero i32 values. -/
opaque Config.osCodes : List Word

/-- The configuration of `State.reset`: the defaults of 00 R8 (log 5), and an unknown value where R8 gives none. -/
def Config.params : Params where
  endian := .little
  layout := .abi
  delayAfterLast := true
  statusArg := Config.statusArg
  bufAddr := Config.bufAddr
  diagLevel := Config.diagLevel
  osErr := Config.osCodes.filter (fun e => decide (e ≠ 0))

/-! ### The free values (00 R12 `draw`; 43 R204 to R206; 60 R253 (b); log 8, 9)

Each is applied to the counter `State.draws`, which every use advances. -/

/-- Whether the transport answers with XferOk. -/
opaque Config.freeOk : Nat → Bool
/-- Which code of OS_ERR an XferErr carries. -/
opaque Config.freeCode : Nat → Nat
/-- The drawn response word of the given index. -/
opaque Config.freeResp : Nat → Nat → Word
/-- The drawn byte of the transfer range at the given index. -/
opaque Config.freeByte : Nat → Nat → Byte
/-- Which of several enabled agents steps next. -/
opaque Config.freeAgent : Nat → Nat

end Sys2Proof
end

