-- ==== Sys2Proof/Machine/Flags.lean ====
section
/-! DEFINITION. The F-FLAGS word of a descriptor (30 R76 to R78) and the F-R1 status word (30 R79, R80; 41 R140 to R147).
The block has no condition-code register (10 R22): these are pure functions of one word. -/

namespace Sys2Proof.Machine

/-! ### F-FLAGS (30 R76, R77). The places of bits 0 to 4 are general knowledge in the spec (93 G3; log 6). -/

/-- RSP_PRESENT, bit 0. -/
def rspPresent : Word := 0x01
/-- RSP_136, bit 1. -/
def rsp136 : Word := 0x02
/-- RSP_CRC, bit 2. -/
def rspCrc : Word := 0x04
/-- RSP_BUSY, bit 3. -/
def rspBusy : Word := 0x08
/-- RSP_OPCODE, bit 4. -/
def rspOpcode : Word := 0x10
/-- CMD_AC, class 0 in bits 6:5. -/
def cmdAc : Word := 0 <<< 5
/-- CMD_ADTC, class 1. -/
def cmdAdtc : Word := 1 <<< 5
/-- CMD_BC, class 2. -/
def cmdBc : Word := 2 <<< 5
/-- FLAGS_R1 = presence, CRC and opcode check. -/
def flagsR1 : Word := rspPresent ||| rspCrc ||| rspOpcode
/-- FLAGS_SEND_STATUS = 0x15. -/
def flagsSendStatus : Word := flagsR1 ||| cmdAc
/-- FLAGS_SEND_EXT_CSD = 0x35. -/
def flagsSendExtCsd : Word := flagsR1 ||| cmdAdtc

/-! ### F-R1 -/

/-- `rfd(w) = (w[8] = 1)` (41 R140). -/
def rfd (w : Word) : Bool := w.getLsbD 8

/-- `cstate(w) = w[12:9]` (41 R141). -/
def cstate (w : Word) : BitVec 4 := w.extractLsb' 9 4

/-- The readiness predicate POLL applies (41 R142): ready for data and not in the state "programming". -/
def isReady (w : Word) : Bool := rfd w && decide (cstate w ≠ Config.stateProgramming)

/-- `zext_32` of a truth value (41 R140, R142). -/
def boolWord (b : Bool) : Word := if b then 1 else 0

/-- STATE_NAME (41 R143, 30 R80): an informative view, which no operation returns. -/
def stateName (c : BitVec 4) : String :=
  match c.toNat with
  | 0 => "IDLE"
  | 1 => "READY"
  | 2 => "IDENTIFICATION"
  | 3 => "STANDBY"
  | 4 => "TRANSFER"
  | 5 => "SENDING_DATA"
  | 6 => "RECEIVING_DATA"
  | 7 => "PROGRAMMING"
  | 8 => "DISCONNECT"
  | _ => "unnamed"

end Sys2Proof.Machine
end

