-- ==== Sys2Proof/Syntax.lean ====
section
/-! DEFINITION. The abstract syntax: one constructor of `Instr` for each row of spec/opcode_table.json (30 R81, R83, R87).
The eighteen requests of F-REQ are the client's instructions. The three rows of F-DESC and F-CTL are what the transport is
given to perform: a descriptor image, or the control call that carries one (log 14). -/

namespace Sys2Proof

/-- The four response words RESPONSE[0..3] of a descriptor (30 R71). -/
structure Resp where
  r0 : Word
  r1 : Word
  r2 : Word
  r3 : Word
  deriving DecidableEq, Repr

/-- The record F of 40 R101: the named fields of a descriptor, in the order of 30 R88. -/
structure Fields where
  writeFlag   : Word
  opcode      : Word
  argument    : Word
  response    : Resp
  flags       : Word
  blockSize   : Word
  blockCount  : Word
  postsleepMin : Word
  postsleepMax : Word
  dataTimeout : Word
  cmdTimeout  : Word
  dataPointer : DWord
  deriving DecidableEq, Repr

/-- The instructions. `Fin 16` is a `cd` field, `Fin 32` a `cw` field, `Fin 8` a `reg` field of 30 R87.
What those types do not say is checked in `WellFormed`. -/
inductive Instr where
  /-- HALT (44 R222). -/
  | halt
  /-- BUILD cdD, opcode, argument, flags (40 R104). -/
  | build (dst : Fin 16) (opcode argument flags : Word)
  /-- WITH_TIMEOUT cdD, cdS, cmd_ms, data_ns (40 R105). -/
  | withTimeout (dst src : Fin 16) (cmdMs dataNs : Word)
  /-- WITH_DATA cdD, cdS, addr64, block_count, block_size (40 R106). -/
  | withData (dst src : Fin 16) (addr : DWord) (blockCount blockSize : Word)
  /-- PACK cdD and the sixteen field words (40 R101). -/
  | pack (dst : Fin 16) (fields : Fields)
  /-- UNPACK cwD, cdS: sixteen variables from CW[D] (40 R102). -/
  | unpack (dst : Fin 32) (src : Fin 16)
  /-- RFD cwD, cwS (41 R140). -/
  | rfd (dst src : Fin 32)
  /-- CSTATE cwD, cwS (41 R141). -/
  | cstate (dst src : Fin 32)
  /-- ISREADY cwD, cwS (41 R142). -/
  | isReady (dst src : Fin 32)
  /-- ENSURE_READY cwD, argument (42 R161). -/
  | ensureReady (dst : Fin 32) (argument : Word)
  /-- READ_STATUS cwD, regno, or cdD when regno = 7 (42 R181). -/
  | readStatus (dst : Fin 32) (reg : Fin 8)
  /-- EXECUTE cwD, cdS (44 R226). -/
  | execute (dst : Fin 32) (src : Fin 16)
  /-- ZERO_BUF (44 R227). -/
  | zeroBuf
  /-- READ_BUF cwD, offset (44 R228). -/
  | readBuf (dst : Fin 32) (offset : Word)
  /-- MOVI cwD, value (44 R223). -/
  | movi (dst : Fin 32) (value : Word)
  /-- JZ cwS, target (44 R224). -/
  | jz (src : Fin 32) (target : Word)
  /-- JNZ cwS, target (44 R225). -/
  | jnz (src : Fin 32) (target : Word)
  /-- FETCH_EXTCSD cwD (44 R230). -/
  | fetchExtcsd (dst : Fin 32)
  /-- SEND_STATUS_DESC: the CMD13 image, with any ARGUMENT and RESPONSE (40 R110). -/
  | sendStatusDesc (argument : Word) (response : Resp)
  /-- SEND_EXT_CSD_DESC: the CMD8 image, with any RESPONSE and DATA_POINTER (40 R111). -/
  | sendExtCsdDesc (response : Resp) (pointer : DWord)
  /-- MMC_CONTROL_CALL: the control call F-CTL = (179, 0) (30 R83). -/
  | mmcControlCall
  deriving DecidableEq, Repr

end Sys2Proof
end

