-- ==== Sys2Proof/Machine/Image.lean ====
section
/-! DEFINITION. Byte images and the CODEC (00 R10; 30 R71 to R75, R88; 40 R100 to R111): byte order, the field offsets of both
layouts, the layout check, and the pure functions from operands to descriptor images. -/

namespace Sys2Proof.Machine

/-! ### Byte order (00 R10, 20 R53) -/

/-- The u32 whose bytes, from the lowest address up, are the four given. -/
def assemble32 (e : Endian) (b0 b1 b2 b3 : Byte) : Word :=
  match e with
  | .little => b3 ++ b2 ++ b1 ++ b0
  | .big => b0 ++ b1 ++ b2 ++ b3

/-- The byte of a u32 that stands at the k-th address from the lowest. -/
def byte32 (e : Endian) (v : Word) (k : Nat) : Byte :=
  match e with
  | .little => v.extractLsb' (8 * k) 8
  | .big => v.extractLsb' (8 * (3 - k)) 8

/-- The u64 whose bytes, from the lowest address up, are the eight given. -/
def assemble64 (e : Endian) (b0 b1 b2 b3 b4 b5 b6 b7 : Byte) : DWord :=
  match e with
  | .little => b7 ++ b6 ++ b5 ++ b4 ++ b3 ++ b2 ++ b1 ++ b0
  | .big => b0 ++ b1 ++ b2 ++ b3 ++ b4 ++ b5 ++ b6 ++ b7

/-- The byte of a u64 that stands at the k-th address from the lowest. -/
def byte64 (e : Endian) (v : DWord) (k : Nat) : Byte :=
  match e with
  | .little => v.extractLsb' (8 * k) 8
  | .big => v.extractLsb' (8 * (7 - k)) 8

/-! ### Images as byte sequences (00 R10) -/

/-- `zeros(72)`. -/
def zeros72 : Image := Vector.replicate 72 0

/-- `img[o]`. No rule reads past byte 71. -/
def imgByte (img : Image) (o : Nat) : Byte := (img[o]?).getD 0

/-- `img` with the bytes from offset `o` on replaced by the given ones. -/
def setBytes (img : Image) (o : Nat) : List Byte → Image
  | [] => img
  | b :: bs => setBytes (img.setIfInBounds o b) (o + 1) bs

/-- `get32(img, o)`. -/
def get32 (e : Endian) (img : Image) (o : Nat) : Word :=
  assemble32 e (imgByte img o) (imgByte img (o + 1)) (imgByte img (o + 2)) (imgByte img (o + 3))

/-- `set32(img, o, v)`. -/
def set32 (e : Endian) (img : Image) (o : Nat) (v : Word) : Image :=
  setBytes img o [byte32 e v 0, byte32 e v 1, byte32 e v 2, byte32 e v 3]

/-- `get64(img, o)`. -/
def get64 (e : Endian) (img : Image) (o : Nat) : DWord :=
  assemble64 e (imgByte img o) (imgByte img (o + 1)) (imgByte img (o + 2)) (imgByte img (o + 3))
    (imgByte img (o + 4)) (imgByte img (o + 5)) (imgByte img (o + 6)) (imgByte img (o + 7))

/-- `set64(img, o, v)`. -/
def set64 (e : Endian) (img : Image) (o : Nat) (v : DWord) : Image :=
  setBytes img o [byte64 e v 0, byte64 e v 1, byte64 e v 2, byte64 e v 3,
    byte64 e v 4, byte64 e v 5, byte64 e v 6, byte64 e v 7]

/-! ### The field offsets (30 R71 to R73) -/

/-- The 32-bit fields of a descriptor. -/
inductive WordField where
  | writeFlag | opcode | argument | resp0 | resp1 | resp2 | resp3 | flags | blockSize | blockCount
  | postsleepMin | postsleepMax | dataTimeout | cmdTimeout
  deriving DecidableEq, Repr

/-- Every 32-bit field, in the order of 30 R88. -/
def wordFields : List WordField :=
  [.writeFlag, .opcode, .argument, .resp0, .resp1, .resp2, .resp3, .flags, .blockSize, .blockCount,
    .postsleepMin, .postsleepMax, .dataTimeout, .cmdTimeout]

/-- The offset constants of 30 R73 under DESC_LAYOUT = ABI. -/
def offAbi : WordField → Nat
  | .writeFlag => 0
  | .opcode => 8
  | .argument => 12
  | .resp0 => 16
  | .resp1 => 20
  | .resp2 => 24
  | .resp3 => 28
  | .flags => 32
  | .blockSize => 36
  | .blockCount => 40
  | .postsleepMin => 44
  | .postsleepMax => 48
  | .dataTimeout => 52
  | .cmdTimeout => 56

/-- The offset constants of 30 R73 under DESC_LAYOUT = LITERAL. -/
def offLiteral : WordField → Nat
  | .writeFlag => 0
  | .opcode => 4
  | .argument => 8
  | .resp0 => 12
  | .resp1 => 16
  | .resp2 => 20
  | .resp3 => 24
  | .flags => 28
  | .blockSize => 32
  | .blockCount => 36
  | .postsleepMin => 40
  | .postsleepMax => 44
  | .dataTimeout => 48
  | .cmdTimeout => 52

/-- OFF_<field> of the layout in force (30 R73). -/
def fieldOff : Layout → WordField → Nat
  | .abi, f => offAbi f
  | .literal, f => offLiteral f

/-- OFF_PTR, in both layouts (30 R73). -/
def offPtr : Nat := 64

/-! ### The layout check (40 R100) -/

/-- One entry of a field table: an offset, a width in bytes, and whether the bytes are reserved (RSV0, PAD). -/
structure Slot where
  offset : Nat
  width : Nat
  reserved : Bool
  deriving DecidableEq, Repr

/-- RSV0 and PAD (30 R71 to R73). -/
def reservedSlots : Layout → List Slot
  | .abi => [⟨4, 4, true⟩, ⟨60, 4, true⟩]
  | .literal => [⟨56, 8, true⟩]

/-- The field table of a layout (30 R71, R72). -/
def layoutTable (l : Layout) : List Slot :=
  wordFields.map (fun f => ⟨fieldOff l f, 4, false⟩) ++ reservedSlots l ++ [⟨offPtr, 8, false⟩]

/-- How many entries of the table hold byte `o`. -/
def slotsAt (t : List Slot) (o : Nat) : Nat :=
  t.countP (fun x => decide (x.offset ≤ o ∧ o < x.offset + x.width))

/-- LAYOUT_CHECK (40 R100) of a field table whose 64-bit pointer stands at `ptr`. -/
def layoutCheck (t : List Slot) (ptr : Nat) : Bool :=
  decide ((t.map (·.width)).sum = Config.descSize)
    && t.all (fun x => decide (x.offset % min x.width 4 = 0))
    && decide (ptr % 8 = 0)
    && (List.range Config.descSize).all (fun o => decide (slotsAt t o = 1))
    && t.all (fun x => decide (x.offset + x.width ≤ Config.descSize))
    && decide ((t.filter (fun x => !x.reserved)).foldl (fun m x => max m x.width) 0 = Config.descAlign)

/-- The reserved bytes of an image are those of RSV0 and PAD (30 R73). -/
def isReservedByte (l : Layout) (o : Nat) : Bool :=
  (reservedSlots l).any (fun x => decide (x.offset ≤ o ∧ o < x.offset + x.width))

/-- Every reserved byte of the image is 0 (40 R103). -/
def reservedZero (l : Layout) (img : Image) : Bool :=
  (List.range 72).all (fun o => !isReservedByte l o || decide (imgByte img o = 0))

/-! ### Field accessors (40 R109) -/

/-- The 32-bit field `f` of an image. -/
def getField (c : Params) (img : Image) (f : WordField) : Word := get32 c.endian img (fieldOff c.layout f)

/-- `img` with its 32-bit field `f` set. -/
def setField (c : Params) (img : Image) (f : WordField) (v : Word) : Image :=
  set32 c.endian img (fieldOff c.layout f) v

/-- `ptrOf`, the u64 at OFF_PTR. -/
def ptrOf (c : Params) (img : Image) : DWord := get64 c.endian img offPtr

/-- `img` with DATA_POINTER set. -/
def setPtr (c : Params) (img : Image) (v : DWord) : Image := set64 c.endian img offPtr v

def opcodeOf (c : Params) (img : Image) : Word := getField c img .opcode
def argOf (c : Params) (img : Image) : Word := getField c img .argument
def flagsOf (c : Params) (img : Image) : Word := getField c img .flags
def writeFlagOf (c : Params) (img : Image) : Word := getField c img .writeFlag
def blocksOf (c : Params) (img : Image) : Word := getField c img .blockCount
def blkszOf (c : Params) (img : Image) : Word := getField c img .blockSize

/-- `resp(img, i)` for the four words. -/
def respOf (c : Params) (img : Image) : Resp :=
  ⟨getField c img .resp0, getField c img .resp1, getField c img .resp2, getField c img .resp3⟩

/-- `setResp(img, r)`: the four response words, every other byte unchanged. -/
def setResp (c : Params) (img : Image) (r : Resp) : Image :=
  setField c (setField c (setField c (setField c img .resp0 r.r0) .resp1 r.r1) .resp2 r.r2) .resp3 r.r3

/-! ### The operations (40 R101, R102, R104 to R106) -/

/-- `pack(F)` (40 R101). -/
def packImg (c : Params) (f : Fields) : Image :=
  let img := setField c zeros72 .writeFlag f.writeFlag
  let img := setField c img .opcode f.opcode
  let img := setField c img .argument f.argument
  let img := setResp c img f.response
  let img := setField c img .flags f.flags
  let img := setField c img .blockSize f.blockSize
  let img := setField c img .blockCount f.blockCount
  let img := setField c img .postsleepMin f.postsleepMin
  let img := setField c img .postsleepMax f.postsleepMax
  let img := setField c img .dataTimeout f.dataTimeout
  let img := setField c img .cmdTimeout f.cmdTimeout
  setPtr c img f.dataPointer

/-- `unpack(img)` (40 R102). -/
def unpackImg (c : Params) (img : Image) : Fields where
  writeFlag := getField c img .writeFlag
  opcode := getField c img .opcode
  argument := getField c img .argument
  response := respOf c img
  flags := getField c img .flags
  blockSize := getField c img .blockSize
  blockCount := getField c img .blockCount
  postsleepMin := getField c img .postsleepMin
  postsleepMax := getField c img .postsleepMax
  dataTimeout := getField c img .dataTimeout
  cmdTimeout := getField c img .cmdTimeout
  dataPointer := ptrOf c img

/-- The sixteen words of a record in the order of 30 R88; the pointer as its low word, then its high word. -/
def fieldWords (f : Fields) : List Word :=
  [f.writeFlag, f.opcode, f.argument, f.response.r0, f.response.r1, f.response.r2, f.response.r3, f.flags,
    f.blockSize, f.blockCount, f.postsleepMin, f.postsleepMax, f.dataTimeout, f.cmdTimeout,
    f.dataPointer.extractLsb' 0 32, f.dataPointer.extractLsb' 32 32]

/-- `build(op, arg, fl)` (40 R104). -/
def buildImg (c : Params) (op arg fl : Word) : Image :=
  let img := setField c zeros72 .opcode op
  let img := setField c img .argument arg
  setField c img .flags fl

/-- `with_timeout(img, cms, dns)` (40 R105). -/
def withTimeoutImg (c : Params) (img : Image) (cms dns : Word) : Image :=
  setField c (setField c img .cmdTimeout cms) .dataTimeout dns

/-- `with_data(img, addr, cnt, sz)` (40 R106). -/
def withDataImg (c : Params) (img : Image) (addr : DWord) (cnt sz : Word) : Image :=
  setPtr c (setField c (setField c img .blockCount cnt) .blockSize sz) addr

/-- SEND_STATUS_DESC(arg) (40 R110). -/
def sendStatusImg (c : Params) (arg : Word) : Image := buildImg c Config.opcSendStatus arg flagsSendStatus

/-- SEND_EXT_CSD_DESC(addr) (40 R111): one block of 512 bytes. -/
def sendExtCsdImg (c : Params) (addr : DWord) : Image :=
  withDataImg c (buildImg c Config.opcSendExtCsd 0 flagsSendExtCsd) addr 1 512

end Sys2Proof.Machine
end

