-- ==== Sys2Proof/WellFormed.lean ====
section
/-! DEFINITION. The operand checks of 30 R89 that the types of `Instr` do not already make. -/

namespace Sys2Proof

/-- A legal instruction (30 R89). UNPACK's sixteen variables end at CW[31]; READ_STATUS of PDESC names a `cd` variable;
READ_BUF's offset is a multiple of 4, at most 508. Every other term is legal. -/
def Instr.wellFormed : Instr → Bool
  | .unpack dst _ => decide (dst.val ≤ 16)
  | .readStatus dst reg => decide (reg.val = 7 → dst.val ≤ 15)
  | .readBuf _ offset => decide (offset.toNat % 4 = 0 ∧ offset.toNat ≤ 508)
  | .halt | .build .. | .withTimeout .. | .withData .. | .pack .. | .rfd .. | .cstate .. | .isReady ..
  | .ensureReady .. | .execute .. | .zeroBuf | .movi .. | .jz .. | .jnz .. | .fetchExtcsd .. | .sendStatusDesc ..
  | .sendExtCsdDesc .. | .mmcControlCall => true

end Sys2Proof
end

