-- ==== Sys2Proof/Decode.lean ====
section
/-! DEFINITION. The decoder, total on any words, images and call identifiers, and the encoder written from the same tables
(30 R81, R83, R86 to R89, R91, R92). -/

namespace Sys2Proof

open Sys2Proof.Machine

/-! ### Why a request frame is no request (30 R86, R89; 60 R251) -/

inductive Reject where
  /-- The header lies at or past the end of the program (30 R86). -/
  | pastEnd
  /-- An operand word lies past the end of the program (30 R86). -/
  | truncated
  /-- Header bits 31:24 are not 0. -/
  | headerHigh
  /-- The OPSEL is not in the table of 30 R87. -/
  | unknownOpsel
  /-- A field marked 0 in 30 R87 is not 0. -/
  | fieldNotZero
  /-- A `cd` field exceeds 15. -/
  | cdRange
  /-- A `cw` field exceeds 31. -/
  | cwRange
  /-- UNPACK's DST exceeds 16. -/
  | unpackBase
  /-- READ_STATUS's SRC exceeds 7. -/
  | regRange
  /-- READ_BUF's offset is not a multiple of 4, or exceeds 508. -/
  | bufOffset
  /-- A control-call identifier other than F-CTL = (179, 0) (30 R83). -/
  | unknownCall
  deriving DecidableEq, Repr

/-! ### The header word (30 R86) -/

/-- OPSEL, bits 7:0. -/
def hdrOpsel (h : Word) : Nat := (h.extractLsb' 0 8).toNat
/-- DST, bits 15:8. -/
def hdrDst (h : Word) : Nat := (h.extractLsb' 8 8).toNat
/-- SRC, bits 23:16. -/
def hdrSrc (h : Word) : Nat := (h.extractLsb' 16 8).toNat
/-- Bits 31:24. -/
def hdrHigh (h : Word) : Nat := (h.extractLsb' 24 8).toNat

/-- The header word of the given fields, bits 31:24 zero. -/
def header (opsel dst src : Nat) : Word :=
  (0 : Byte) ++ BitVec.ofNat 8 src ++ BitVec.ofNat 8 dst ++ BitVec.ofNat 8 opsel

/-- A `cd` field. -/
def needCd (n : Nat) : Except Reject (Fin 16) := if h : n < 16 then .ok ⟨n, h⟩ else .error .cdRange
/-- A `cw` field. -/
def needCw (n : Nat) : Except Reject (Fin 32) := if h : n < 32 then .ok ⟨n, h⟩ else .error .cwRange
/-- A `reg` field. -/
def needReg (n : Nat) : Except Reject (Fin 8) := if h : n < 8 then .ok ⟨n, h⟩ else .error .regRange
/-- A field marked 0. -/
def needZero (n : Nat) : Except Reject Unit := if n = 0 then .ok () else .error .fieldNotZero

/-! ### One decoder per row of 30 R87: the DST and SRC fields and the words after the header, to the request and the rest -/

def decHalt (dst src : Nat) (ops : List Word) : Except Reject (Instr × List Word) := do
  needZero dst
  needZero src
  .ok (.halt, ops)

def decBuild (dst src : Nat) : List Word → Except Reject (Instr × List Word)
  | op :: arg :: fl :: rest => do
    let d ← needCd dst
    needZero src
    .ok (.build d op arg fl, rest)
  | _ => .error .truncated

def decWithTimeout (dst src : Nat) : List Word → Except Reject (Instr × List Word)
  | cms :: dns :: rest => do
    let d ← needCd dst
    let s ← needCd src
    .ok (.withTimeout d s cms dns, rest)
  | _ => .error .truncated

/-- `addr = addr_hi ++ addr_lo` (30 R84). -/
def decWithData (dst src : Nat) : List Word → Except Reject (Instr × List Word)
  | lo :: hi :: cnt :: sz :: rest => do
    let d ← needCd dst
    let s ← needCd src
    .ok (.withData d s (hi ++ lo) cnt sz, rest)
  | _ => .error .truncated

/-- The sixteen operand words in the order of 30 R88. -/
def decPack (dst src : Nat) : List Word → Except Reject (Instr × List Word)
  | wf :: op :: arg :: r0 :: r1 :: r2 :: r3 :: fl :: bs :: bc :: pmin :: pmax :: dto :: cto :: plo :: phi :: rest => do
    let d ← needCd dst
    needZero src
    .ok (.pack d ⟨wf, op, arg, ⟨r0, r1, r2, r3⟩, fl, bs, bc, pmin, pmax, dto, cto, phi ++ plo⟩, rest)
  | _ => .error .truncated

def decUnpack (dst src : Nat) (ops : List Word) : Except Reject (Instr × List Word) := do
  let d ← needCw dst
  let s ← needCd src
  if dst ≤ 16 then .ok (.unpack d s, ops) else .error .unpackBase

def decRfd (dst src : Nat) (ops : List Word) : Except Reject (Instr × List Word) := do
  let d ← needCw dst
  let s ← needCw src
  .ok (.rfd d s, ops)

def decCstate (dst src : Nat) (ops : List Word) : Except Reject (Instr × List Word) := do
  let d ← needCw dst
  let s ← needCw src
  .ok (.cstate d s, ops)

def decIsReady (dst src : Nat) (ops : List Word) : Except Reject (Instr × List Word) := do
  let d ← needCw dst
  let s ← needCw src
  .ok (.isReady d s, ops)

def decEnsureReady (dst src : Nat) : List Word → Except Reject (Instr × List Word)
  | arg :: rest => do
    let d ← needCw dst
    needZero src
    .ok (.ensureReady d arg, rest)
  | _ => .error .truncated

/-- DST is a `cw` field, or a `cd` field when SRC = 7. -/
def decReadStatus (dst src : Nat) (ops : List Word) : Except Reject (Instr × List Word) := do
  let r ← needReg src
  let d ← needCw dst
  if src = 7 ∧ 15 < dst then .error .cdRange else .ok (.readStatus d r, ops)

def decExecute (dst src : Nat) (ops : List Word) : Except Reject (Instr × List Word) := do
  let d ← needCw dst
  let s ← needCd src
  .ok (.execute d s, ops)

def decZeroBuf (dst src : Nat) (ops : List Word) : Except Reject (Instr × List Word) := do
  needZero dst
  needZero src
  .ok (.zeroBuf, ops)

def decReadBuf (dst src : Nat) : List Word → Except Reject (Instr × List Word)
  | off :: rest => do
    let d ← needCw dst
    needZero src
    if off.toNat % 4 = 0 ∧ off.toNat ≤ 508 then .ok (.readBuf d off, rest) else .error .bufOffset
  | _ => .error .truncated

def decMovi (dst src : Nat) : List Word → Except Reject (Instr × List Word)
  | v :: rest => do
    let d ← needCw dst
    needZero src
    .ok (.movi d v, rest)
  | _ => .error .truncated

def decJz (dst src : Nat) : List Word → Except Reject (Instr × List Word)
  | t :: rest => do
    needZero dst
    let s ← needCw src
    .ok (.jz s t, rest)
  | _ => .error .truncated

def decJnz (dst src : Nat) : List Word → Except Reject (Instr × List Word)
  | t :: rest => do
    needZero dst
    let s ← needCw src
    .ok (.jnz s t, rest)
  | _ => .error .truncated

def decFetchExtcsd (dst src : Nat) (ops : List Word) : Except Reject (Instr × List Word) := do
  let d ← needCw dst
  needZero src
  .ok (.fetchExtcsd d, ops)

/-- The OPSEL map (30 R87). -/
def decodeOpsel (opsel dst src : Nat) (ops : List Word) : Except Reject (Instr × List Word) :=
  match opsel with
  | 0x00 => decHalt dst src ops
  | 0x01 => decBuild dst src ops
  | 0x02 => decWithTimeout dst src ops
  | 0x03 => decWithData dst src ops
  | 0x04 => decPack dst src ops
  | 0x05 => decUnpack dst src ops
  | 0x10 => decRfd dst src ops
  | 0x11 => decCstate dst src ops
  | 0x12 => decIsReady dst src ops
  | 0x20 => decEnsureReady dst src ops
  | 0x21 => decReadStatus dst src ops
  | 0x22 => decExecute dst src ops
  | 0x23 => decZeroBuf dst src ops
  | 0x24 => decReadBuf dst src ops
  | 0x25 => decMovi dst src ops
  | 0x26 => decJz dst src ops
  | 0x27 => decJnz dst src ops
  | 0x30 => decFetchExtcsd dst src ops
  | _ => .error .unknownOpsel

/-- The request at the head of a word sequence, and the words after it (30 R86). Total: every sequence is a request or is
rejected by name (60 R251). -/
def decodeFrame : List Word → Except Reject (Instr × List Word)
  | [] => .error .pastEnd
  | h :: ops =>
    if hdrHigh h = 0 then decodeOpsel (hdrOpsel h) (hdrDst h) (hdrSrc h) ops else .error .headerHigh

/-! ### Descriptor images and the control call (30 R81 to R83) -/

/-- What the transport is given when an image is outstanding: the CMD13 preset, the CMD8 preset, or the control call carrying
any other descriptor (30 R82). Total: every image is one of the three (30 R90). -/
def decodeImage (c : Params) (img : Image) : Instr :=
  if img = setResp c (sendStatusImg c (argOf c img)) (respOf c img) then .sendStatusDesc (argOf c img) (respOf c img)
  else if img = setResp c (sendExtCsdImg c (ptrOf c img)) (respOf c img) then
    .sendExtCsdDesc (respOf c img) (ptrOf c img)
  else .mmcControlCall

/-- F-CTL packed as `CTL_MAJOR << 8 | CTL_NR` (30 R83). -/
def ctlCode : BitVec 16 := Config.ctlMajor ++ Config.ctlNr

def decodeCall (w : BitVec 16) : Except Reject Instr := if w = ctlCode then .ok .mmcControlCall else .error .unknownCall

/-- An instruction in the format that carries it (30 R70). -/
inductive Code where
  /-- F-REQ: the words of a request frame. -/
  | frame (words : List Word)
  /-- F-DESC: a descriptor image. -/
  | image (img : Image)
  /-- F-CTL: the identifier of a control call. -/
  | call (id : BitVec 16)
  deriving DecidableEq, Repr

/-- The instruction a code stands for. -/
def decode (c : Params) : Code → Except Reject Instr
  | .frame ws => (decodeFrame ws).map (·.1)
  | .image img => .ok (decodeImage c img)
  | .call w => decodeCall w

/-! ### The encoder -/

/-- The words of a request (30 R87, R88); none for the three rows that are no requests. -/
def frameWords : Instr → List Word
  | .halt => [header 0x00 0 0]
  | .build d op arg fl => [header 0x01 d 0, op, arg, fl]
  | .withTimeout d s cms dns => [header 0x02 d s, cms, dns]
  | .withData d s addr cnt sz => [header 0x03 d s, addr.extractLsb' 0 32, addr.extractLsb' 32 32, cnt, sz]
  | .pack d f => header 0x04 d 0 :: fieldWords f
  | .unpack d s => [header 0x05 d s]
  | .rfd d s => [header 0x10 d s]
  | .cstate d s => [header 0x11 d s]
  | .isReady d s => [header 0x12 d s]
  | .ensureReady d arg => [header 0x20 d 0, arg]
  | .readStatus d r => [header 0x21 d r]
  | .execute d s => [header 0x22 d s]
  | .zeroBuf => [header 0x23 0 0]
  | .readBuf d off => [header 0x24 d 0, off]
  | .movi d v => [header 0x25 d 0, v]
  | .jz s t => [header 0x26 0 s, t]
  | .jnz s t => [header 0x27 0 s, t]
  | .fetchExtcsd d => [header 0x30 d 0]
  | .sendStatusDesc .. | .sendExtCsdDesc .. | .mmcControlCall => []

/-- The code of an instruction: a request's frame, a preset with the response words it carries (30 R81), or F-CTL. -/
def encode (c : Params) (i : Instr) : Code :=
  match i with
  | .sendStatusDesc arg r => .image (setResp c (sendStatusImg c arg) r)
  | .sendExtCsdDesc r p => .image (setResp c (sendExtCsdImg c p) r)
  | .mmcControlCall => .call ctlCode
  | .halt | .build .. | .withTimeout .. | .withData .. | .pack .. | .unpack .. | .rfd .. | .cstate .. | .isReady ..
  | .ensureReady .. | .readStatus .. | .execute .. | .zeroBuf | .readBuf .. | .movi .. | .jz .. | .jnz ..
  | .fetchExtcsd .. => .frame (frameWords i)

/-- The instruction is a request of F-REQ (30 R87). -/
def isRequest : Instr → Bool
  | .sendStatusDesc .. | .sendExtCsdDesc .. | .mmcControlCall => false
  | .halt | .build .. | .withTimeout .. | .withData .. | .pack .. | .unpack .. | .rfd .. | .cstate .. | .isReady ..
  | .ensureReady .. | .readStatus .. | .execute .. | .zeroBuf | .readBuf .. | .movi .. | .jz .. | .jnz ..
  | .fetchExtcsd .. => true

/-- The length of a request in words, by its row of 30 R87; 0 for the rows that are no requests. -/
def frameLength : Instr → Nat
  | .halt => 1
  | .build .. => 4
  | .withTimeout .. => 3
  | .withData .. => 5
  | .pack .. => 17
  | .unpack .. => 1
  | .rfd .. => 1
  | .cstate .. => 1
  | .isReady .. => 1
  | .ensureReady .. => 2
  | .readStatus .. => 1
  | .execute .. => 1
  | .zeroBuf => 1
  | .readBuf .. => 2
  | .movi .. => 2
  | .jz .. => 2
  | .jnz .. => 2
  | .fetchExtcsd .. => 1
  | .sendStatusDesc .. | .sendExtCsdDesc .. | .mmcControlCall => 0

/-- A decoder tells a request's length from OPSEL alone (30 R87); `none` for an OPSEL that is not in the table. -/
def opselLength (opsel : Nat) : Option Nat :=
  match opsel with
  | 0x00 | 0x05 | 0x10 | 0x11 | 0x12 | 0x21 | 0x22 | 0x23 | 0x30 => some 1
  | 0x20 | 0x24 | 0x25 | 0x26 | 0x27 => some 2
  | 0x02 => some 3
  | 0x01 => some 4
  | 0x03 => some 5
  | 0x04 => some 17
  | _ => none

/-! ### Pseudo-operations (30 R92) -/

/-- SEND_STATUS cdD, arg. -/
def pseudoSendStatus (d : Fin 16) (arg : Word) : List Instr := [.build d 13 arg 0x15]
/-- SEND_EXT_CSD cdD, addr. -/
def pseudoSendExtCsd (d : Fin 16) (addr : DWord) : List Instr := [.build d 8 0 0x35, .withData d d addr 1 512]
/-- JMP label; it overwrites cw31. -/
def pseudoJmp (target : Word) : List Instr := [.movi 31 0, .jz 31 target]

/-- The words of a program given as a list of requests (30 R86). -/
def assemble (is : List Instr) : List Word := is.flatMap frameWords

/-! ### Assembly notation (30 R91) -/

def asmCd (n : Nat) : String := "cd" ++ toString n
def asmCw (n : Nat) : String := "cw" ++ toString n

/-- One line of assembly: the mnemonic, and its operands in the order of 30 R91, numbers in decimal. -/
def asmParts : Instr → String × List String
  | .halt => ("HALT", [])
  | .build d op arg fl => ("BUILD", [asmCd d, toString op.toNat, toString arg.toNat, toString fl.toNat])
  | .withTimeout d s cms dns => ("WITH_TIMEOUT", [asmCd d, asmCd s, toString cms.toNat, toString dns.toNat])
  | .withData d s addr cnt sz =>
    ("WITH_DATA", [asmCd d, asmCd s, toString addr.toNat, toString cnt.toNat, toString sz.toNat])
  | .pack d f =>
    ("PACK", asmCd d :: ((fieldWords f).take 14).map (fun w => toString w.toNat) ++ [toString f.dataPointer.toNat])
  | .unpack d s => ("UNPACK", [asmCw d, asmCd s])
  | .rfd d s => ("RFD", [asmCw d, asmCw s])
  | .cstate d s => ("CSTATE", [asmCw d, asmCw s])
  | .isReady d s => ("ISREADY", [asmCw d, asmCw s])
  | .ensureReady d arg => ("ENSURE_READY", [asmCw d, toString arg.toNat])
  | .readStatus d r => ("READ_STATUS", [if r = 7 then asmCd d else asmCw d, toString r.val])
  | .execute d s => ("EXECUTE", [asmCw d, asmCd s])
  | .zeroBuf => ("ZERO_BUF", [])
  | .readBuf d off => ("READ_BUF", [asmCw d, toString off.toNat])
  | .movi d v => ("MOVI", [asmCw d, toString v.toNat])
  | .jz s t => ("JZ", [asmCw s, toString t.toNat])
  | .jnz s t => ("JNZ", [asmCw s, toString t.toNat])
  | .fetchExtcsd d => ("FETCH_EXTCSD", [asmCw d])
  | .sendStatusDesc arg _ => ("SEND_STATUS_DESC", [toString arg.toNat])
  | .sendExtCsdDesc _ p => ("SEND_EXT_CSD_DESC", [toString p.toNat])
  | .mmcControlCall => ("MMC_CONTROL_CALL", [])

/-! ### The host's view of the decoder (log 27) -/

/-- The words of the longest request: `w` cut into 32-bit words, lowest bits first, and zeros above. -/
def tableWords (w : Nat) : List Word := (List.range 17).map (fun k => BitVec.ofNat 32 (w >>> (32 * k)))

/-- The image whose byte `o` is bits 8o+7 to 8o of `w`. -/
def tableImage (w : Nat) : Image := setBytes zeros72 0 ((List.range 72).map (fun o => BitVec.ofNat 8 (w >>> (8 * o))))

/-- The format a row of the opcode table has, by its number of bits: 16 is F-CTL, 576 is F-DESC, any other F-REQ. -/
def tableCode (nbits w : Nat) : Code :=
  if nbits = 16 then .call (BitVec.ofNat 16 w)
  else if nbits = 576 then .image (tableImage w)
  else .frame (tableWords w)

/-- The instruction the decoder reads from the table's bits; images under the configuration the table states, which
`Config.params` has (ABI, LITTLE). -/
def decodeTableWord (nbits w : Nat) : Option Instr := (decode Config.params (tableCode nbits w)).toOption

end Sys2Proof
end

