-- ==== Sys2Proof/Machine/State.lean ====
section
/-! DEFINITION. The state of the block and of its environment (spec/10_state.md), the faults and refusals (60 R244, R263, R264),
the events of the history (10 R36, R38), and the state after reset (70 R271). "No value" is the spec's own state of a register
or variable (10 R34, 70 R271), and is `none` (log 7). -/

namespace Sys2Proof.Machine

/-! ### POLL registers (10 R23 to R30) -/

/-- PSTATE (10 R23). -/
inductive PState where
  | unknown
  | checking
  | ready
  | exhausted
  | failed
  deriving DecidableEq, Repr

/-- PHASE (10 R24). -/
inductive Phase where
  | idle
  | issue
  | waitRsp
  | delay
  deriving DecidableEq, Repr

/-- RESULT and CRESULT (10 R28, R34). -/
inductive OpResult where
  | none
  | ok
  | timeout
  | transport
  deriving DecidableEq, Repr

/-- The POLL registers, numbered 0 to 7 in this order (10, section 2). -/
structure PollRegs where
  /-- 0 PSTATE -/
  pstate : PState
  /-- 1 PHASE -/
  phase : Phase
  /-- 2 ATTEMPTS -/
  attempts : Word
  /-- 3 ARG -/
  arg : Option Word
  /-- 4 LAST_RESP -/
  lastResp : Option Word
  /-- 5 RESULT -/
  result : OpResult
  /-- 6 ERRCODE, an i32 as its 32 bits -/
  errcode : Option Word
  /-- 7 PDESC -/
  pdesc : Option Image
  deriving DecidableEq, Repr

/-! ### The transport port (10 R35, 43 R207) -/

/-- Who may own an outstanding transport request (10 R35). -/
inductive Owner where
  | poll
  | client
  deriving DecidableEq, Repr

/-- An outstanding transport request: XOWNER and the image XferReq carried (20 R67). -/
structure Call where
  owner : Owner
  image : Image
  deriving DecidableEq, Repr

/-- The state of the port: the outstanding request, and BUSY_HAZARD. -/
structure PortState where
  call : Option Call
  busyHazard : Bool
  deriving DecidableEq, Repr

/-! ### The client (10 R34; 44 R220, R229, R236) -/

/-- FSTEP: the step of a FETCH_EXTCSD in progress (44 R229). -/
inductive FStep where
  | one
  | two
  | three
  | four
  | five
  deriving DecidableEq, Repr

/-- What the client is doing (44 R220). -/
inductive ClientState where
  /-- Its next step is the request at CPC. -/
  | ready
  /-- It waits for the Done of an ENSURE_READY. -/
  | awaitDone (dst : Fin 32)
  /-- It waits for the answer to an EXECUTE. -/
  | awaitXfer (dst : Fin 32) (src : Fin 16)
  /-- FETCH_EXTCSD is in progress at step FSTEP, waiting for a Done or an answer or about to take its next step. -/
  | fetching (dst : Fin 32) (step : FStep) (waiting : Bool)
  /-- It has performed HALT (44 R236). -/
  | finished
  deriving DecidableEq, Repr

/-! ### Faults and refusals -/

/-- What an UnwrittenRead names (60 R244). -/
inductive Loc where
  | reg (n : Fin 8)
  | cw (i : Fin 32)
  | cd (i : Fin 16)
  | byte (addr : Nat)
  deriving DecidableEq, Repr

/-- The seven faults and the information each records (60 R244). A meaning raises one by recording it in `State.fault`
(a next state: 60 R243); `step` answers `.fault` in a state that holds one, from which no agent takes a step. All are safe:
the spec raises exactly these, and a faulted run proves nothing. -/
inductive Fault where
  /-- 1, raised by ENSURE_READY while PSTATE = CHECKING: the request's CPC (60 R245). Safe. -/
  | startWhileBusy (cpc : Nat)
  /-- 2, raised by any request that reads a register, variable or buffer byte that holds no value (60 R246; 93 U21: "never a value").
  Safe. -/
  | unwrittenRead (what : Loc)
  /-- 3, raised at the port while a request is outstanding: the new owner and the image (60 R247). Safe. -/
  | concurrentCommand (owner : Owner) (img : Image)
  /-- 4, raised at the port for a data phase whose pointer is not 8-aligned (60 R248). Safe. -/
  | misalignedDataBuffer (ptr : DWord)
  /-- 5, raised at the port for a range outside the buffer (60 R249), and by a host-memory access past 2^64-1 (20 R51):
  the first address, and the blocks and their size. Safe. -/
  | bufferOutOfRange (ptr blocks blksz : Nat)
  /-- 6, raised at the port for a non-status command while BUSY_HAZARD = 1: the opcode (60 R250). Safe. -/
  | busyHazard (opcode : Word)
  /-- 7, raised at the fetch of a frame that is no request: CPC and the header word, if there is one (60 R251). Safe. -/
  | illegalRequest (cpc : Nat) (hdr : Option Word)
  deriving DecidableEq, Repr

/-- REFUSED: the mark a write command leaves, with the agent that has no further step (60 R264). -/
inductive RefusalMark where
  | writePathRefused (owner : Owner)
  deriving DecidableEq, Repr

/-- Why the machine gives no next state. All are safe: the model stops. -/
inductive Refusal where
  /-- An instruction that has no meaning yet, rejected by name in `exec`. Safe. -/
  | notModelled (mnemonic : String)
  /-- `boot`: the configuration fails its check, so there is no run (60 R263). Safe. -/
  | configRefused
  /-- `step`: an agent was refused a write command and no other agent has a step (60 R264). Safe. -/
  | writePathRefused
  /-- `step`: the run has ended well, and no agent has a step (00 R18). Safe. -/
  | runEnded
  /-- `step`: no agent has a step and the run has not ended well (00 R18); no run reaches it. Safe. -/
  | stuck
  /-- SEND_STATUS_DESC, SEND_EXT_CSD_DESC and MMC_CONTROL_CALL while XOWNER = NONE: the transport agent has no step (43 R207).
  Safe. -/
  | noCallOutstanding
  deriving DecidableEq, Repr

/-! ### The history (10 R36, R38) -/

/-- The value of a Reply on the REQ port. -/
inductive Reply where
  | image (img : Image)
  | word (w : Word)
  | words (ws : List Word)
  deriving DecidableEq, Repr

/-- The transactions of the ports, and the faults. -/
inductive Event where
  /-- REQ: an operation request, as the instruction it is (30 R85). -/
  | req (i : Instr)
  /-- REQ: the value returned in the same step. -/
  | reply (v : Reply)
  /-- DONE: the result of an ENSURE_READY, and the OS code of a TRANSPORT. -/
  | done (result : OpResult) (code : Option Word)
  /-- XREQ -/
  | xferReq (owner : Owner) (img : Image)
  /-- XRSP: success, with the image returned. -/
  | xferOk (img : Image)
  /-- XRSP: failure, with the OS code. -/
  | xferErr (code : Word)
  /-- DREQ, in milliseconds. -/
  | delayReq (ms : Nat)
  /-- DDONE -/
  | delayDone
  /-- TRACE at DIAG_LEVEL 1 and above (43 R209). -/
  | traceIssue (opcode argument flags : Word)
  /-- TRACE at DIAG_LEVEL 2 and above: OK, or the code of an ERR, and the response words (43 R209). -/
  | traceResult (err : Option Word) (resp : Resp)
  /-- A fault (60 R243). -/
  | fault (f : Fault)
  deriving DecidableEq, Repr

/-! ### The whole state -/

/-- Everything the spec gives the block and its environment. -/
structure State where
  /-- The configuration, constant for a run (10 R33; log 3). -/
  cfg : Params
  /-- The client's program, a sequence of F-REQ words (30 R86). -/
  program : List Word
  /-- The POLL registers. -/
  poll : PollRegs
  /-- The transport port. -/
  port : PortState
  /-- CD[0..15] -/
  cd : Vector (Option Image) 16
  /-- CW[0..31] -/
  cw : Vector (Option Word) 32
  /-- CPC -/
  cpc : Nat
  /-- What the client is doing, with FSTEP. -/
  client : ClientState
  /-- CRESULT -/
  cresult : OpResult
  /-- CERR, an i32 as its 32 bits -/
  cerr : Option Word
  /-- Host memory: the bytes that hold a value, by rising address (20 R51). -/
  mem : List Host.Cell
  /-- FAULT (60 R243) -/
  fault : Option Fault
  /-- REFUSED (60 R264) -/
  refused : Option RefusalMark
  /-- The history, oldest event first (10 R38). -/
  history : List Event
  /-- The model's own counter of draws (log 8). -/
  draws : Nat
  deriving DecidableEq, Repr

/-- The POLL registers after reset (70 R271). -/
def pollReset : PollRegs where
  pstate := .unknown
  phase := .idle
  attempts := 0
  arg := none
  lastResp := none
  result := .none
  errcode := none
  pdesc := none

/-- The state after reset under a configuration (70 R270, R271). -/
def resetWith (c : Params) : State where
  cfg := c
  program := []
  poll := pollReset
  port := ⟨none, true⟩
  cd := Vector.replicate 16 none
  cw := Vector.replicate 32 none
  cpc := 0
  client := .ready
  cresult := .none
  cerr := none
  mem := []
  fault := none
  refused := none
  history := []
  draws := 0

/-- The machine right after reset. -/
def State.reset : State := resetWith Config.params

end Sys2Proof.Machine
end

