-- ==== Sys2Proof/Machine/Ops.lean ====
section
/-! DEFINITION. The shared operations over the state: the history, raising a fault and marking a refusal, the client's
variables, host memory, and the result codes. -/

namespace Sys2Proof.Machine

/-- Appends events to the history (10 R38). -/
def log (es : List Event) (s : State) : State := { s with history := s.history ++ es }

/-- `raise Fault(info)` (60 R243): the fault is recorded and appended to the history, and nothing else changes (60 R254).
From then on no agent takes a step (`Agents.plan`). -/
def raise (f : Fault) (s : State) : State := { s with fault := some f, history := s.history ++ [.fault f] }

/-- A refused XferReq (60 R264): the request was sent, so it is in the history (10 R36, R38); REFUSED is marked, no call is made,
and the requesting agent has no further step. -/
def refuseWrite (o : Owner) (img : Image) (s : State) : State :=
  { log [.xferReq o img] s with refused := some (.writePathRefused o) }

/-- The numeric code of a fault (60 R244). -/
def faultCode : Fault → Nat
  | .startWhileBusy .. => 1
  | .unwrittenRead .. => 2
  | .concurrentCommand .. => 3
  | .misalignedDataBuffer .. => 4
  | .bufferOutOfRange .. => 5
  | .busyHazard .. => 6
  | .illegalRequest .. => 7

/-! ### Register codes (10 R23, R24, R28) -/

def pstateCode : PState → Word
  | .unknown => 0
  | .checking => 1
  | .ready => 2
  | .exhausted => 3
  | .failed => 4

def phaseCode : Phase → Word
  | .idle => 0
  | .issue => 1
  | .waitRsp => 2
  | .delay => 3

def resultCode : OpResult → Word
  | .none => 0
  | .ok => 1
  | .timeout => 2
  | .transport => 3

/-- FSTEP as the number 1 to 5 (44 R229). -/
def fstepCode : FStep → Nat
  | .one => 1
  | .two => 2
  | .three => 3
  | .four => 4
  | .five => 5

/-! ### Views of the state -/

/-- XOWNER (10 R35): none when no transport request is outstanding. -/
def State.xowner (s : State) : Option Owner := s.port.call.map (·.owner)

/-- FSTEP (44 R229): a value exactly while a FETCH_EXTCSD is in progress. -/
def State.fstep (s : State) : Option FStep :=
  match s.client with
  | .fetching _ k _ => some k
  | .ready | .awaitDone _ | .awaitXfer _ _ | .finished => none

/-- A delay request is outstanding (10 R24, R37 (c)). -/
def State.delayOutstanding (s : State) : Bool := decide (s.poll.phase = .delay)

/-- POLL register `n` as `zext_32` of its value, for n other than 7 (42 R181). -/
def pollWord (r : PollRegs) (n : Fin 8) : Option Word :=
  match n.val with
  | 0 => some (pstateCode r.pstate)
  | 1 => some (phaseCode r.phase)
  | 2 => some r.attempts
  | 3 => r.arg
  | 4 => r.lastResp
  | 5 => some (resultCode r.result)
  | 6 => r.errcode
  | _ => none

/-! ### The client's variables and CPC -/

/-- CW[i] <- v. -/
def writeCw (i : Fin 32) (v : Word) (s : State) : State := { s with cw := s.cw.set i (some v) }

/-- CD[i] <- img. -/
def writeCd (i : Fin 16) (img : Image) (s : State) : State := { s with cd := s.cd.set i (some img) }

/-- The words in CW from index `k` on; an index past 31 names no variable. -/
def setCws (cw : Vector (Option Word) 32) (k : Nat) : List Word → Vector (Option Word) 32
  | [] => cw
  | w :: ws => setCws (cw.setIfInBounds k (some w)) (k + 1) ws

/-- CW[k], CW[k+1], ... <- the words (40 R102). -/
def writeCws (k : Nat) (ws : List Word) (s : State) : State := { s with cw := setCws s.cw k ws }

/-- CPC <- CPC + n (44 R221). -/
def advance (n : Nat) (s : State) : State := { s with cpc := s.cpc + n }

/-! ### Host memory (20 R50, R51) -/

/-- The byte at an address; none where nothing has been written. -/
def memByte (m : List Host.Cell) (a : Nat) : Option Byte := (m.find? (fun c => decide (c.1 = a))).map (·.2)

/-- The cells of a run of bytes from address `a` up. -/
def cellsFrom (a : Nat) : List Byte → List Host.Cell
  | [] => []
  | b :: bs => (a, b) :: cellsFrom (a + 1) bs

/-- `m` with the bytes from address `a` up replaced; no bytes leave it as it is. -/
def memStore (m : List Host.Cell) (a : Nat) (bs : List Byte) : List Host.Cell :=
  if bs.isEmpty then m
  else m.filter (fun c => decide (c.1 < a)) ++ cellsFrom a bs ++ m.filter (fun c => decide (a + bs.length ≤ c.1))

/-- Addresses strictly rise. -/
def risingCells : List Host.Cell → Bool
  | [] => true
  | [_] => true
  | c :: d :: cs => decide (c.1 < d.1) && risingCells (d :: cs)

/-- The canonical form: addresses strictly rise and are 64-bit addresses. An unlisted byte holds no value, so no entry can
equal what an unlisted address reads as (log 18). -/
def Memory.wf (m : List Host.Cell) : Bool := risingCells m && m.all (fun c => decide (c.1 < 2 ^ 64))

/-- The `n` addresses from `a` up are addresses: none passes 2^64-1 (20 R51). -/
def addrOk (a n : Nat) : Bool := decide (a + n ≤ 2 ^ 64)

/-- `MemWrite(a, n, bs)` of the state's memory, for n = the number of bytes. -/
def writeMem (a : Nat) (bs : List Byte) (s : State) : State := { s with mem := memStore s.mem a bs }

/-- The zero-fill of the client buffer, `MemWrite(BUF_ADDR, 512, zeros(512))` (44 R227, R231), then `k`. A buffer that passes
2^64-1 raises BufferOutOfRange (20 R51; log 17). -/
def zeroFill (k : State → State) (s : State) : State :=
  if addrOk s.cfg.bufAddr.toNat Config.extcsdBytes then
    k (writeMem s.cfg.bufAddr.toNat (List.replicate Config.extcsdBytes 0) s)
  else raise (.bufferOutOfRange s.cfg.bufAddr.toNat 1 Config.extcsdBytes) s

end Sys2Proof.Machine
end

