-- ==== Sys2Proof/Machine/Operands.lean ====
section
/-! DEFINITION. The operand forms: reading a `cw` variable, a `cd` variable, a POLL register or a word of host memory, each of
which raises UnwrittenRead where it holds no value (60 R246), before any effect (60 R253 (d)); and the check that a request is
legal (30 R89). -/

namespace Sys2Proof.Machine

/-- The value of CW[i], given to `k`. A variable that holds no value raises UnwrittenRead, fault 2 of 60 R244 (60 R246; 44 R220:
"Reading one raises UnwrittenRead"). -/
def withCw (i : Fin 32) (k : Word → State → State) (s : State) : State :=
  match s.cw[i] with
  | some v => k v s
  | none => raise (.unwrittenRead (.cw i)) s

/-- The image in CD[i], given to `k`. A variable that holds no value raises UnwrittenRead (60 R244, R246; 44 R220). -/
def withCd (i : Fin 16) (k : Image → State → State) (s : State) : State :=
  match s.cd[i] with
  | some img => k img s
  | none => raise (.unwrittenRead (.cd i)) s

/-- POLL register n as a word, given to `k`; n = 7 is PDESC, which `withPdesc` reads. A register that holds no
value raises UnwrittenRead (60 R244, R246; 10 R31; 70 R271: "A register that holds no value faults when read"). -/
def withPollWord (n : Fin 8) (k : Word → State → State) (s : State) : State :=
  match pollWord s.poll n with
  | some v => k v s
  | none => raise (.unwrittenRead (.reg n)) s

/-- PDESC, given to `k`; before the first ISSUE it holds no value, and raises UnwrittenRead (60 R246; 42 R181). -/
def withPdesc (k : Image → State → State) (s : State) : State :=
  match s.poll.pdesc with
  | some img => k img s
  | none => raise (.unwrittenRead (.reg 7)) s

/-- The byte at a host address, given to `k`. A byte that nothing has written holds no value, and raises UnwrittenRead (60 R246;
20 R51; 44 R228). -/
def withByte (a : Nat) (k : Byte → State → State) (s : State) : State :=
  match memByte s.mem a with
  | some b => k b s
  | none => raise (.unwrittenRead (.byte a)) s

/-- `get32(MemRead(a, 4), 0)` in HOST_ENDIAN order, given to `k`; the lowest address is read first (20 R51). -/
def withMem32 (a : Nat) (k : Word → State → State) (s : State) : State :=
  if addrOk a 4 then
    withByte a (fun b0 => withByte (a + 1) (fun b1 => withByte (a + 2) (fun b2 => withByte (a + 3) (fun b3 =>
      k (assemble32 s.cfg.endian b0 b1 b2 b3))))) s
  else raise (.bufferOutOfRange a 1 4) s

/-- The request, if it is legal; otherwise IllegalRequest with CPC and its header word (30 R89; log 25). -/
def ifLegal (i : Instr) (k : State → State) (s : State) : State :=
  if i.wellFormed then k s else raise (.illegalRequest s.cpc (frameWords i).head?) s

end Sys2Proof.Machine
end

