-- ==== Sys2Proof/Machine/Port.lean ====
section
/-! DEFINITION. The transport port (spec/43_transport_port.md): admission of a request (R200 to R203), and the effects of an
answer on the port, the image and the host memory (R204 to R209). -/

namespace Sys2Proof.Machine

/-! ### Admission (43 R200, R213) -/

/-- `inBuffer(p, n)`, on unbounded naturals (43 R202, 41 R147). -/
def inBuffer (c : Params) (p n : Nat) : Bool :=
  decide (c.bufAddr.toNat ≤ p ∧ p + n ≤ c.bufAddr.toNat + Config.extcsdBytes)

/-- The number of bytes of the data phase, `blocks * blksz`, without wrap-around. -/
def transferLen (c : Params) (img : Image) : Nat := (blocksOf c img).toNat * (blkszOf c img).toNat

/-- What admission answers. -/
inductive Admission where
  /-- Admitted: the port's next state, and the trace it emits. -/
  | admitted (p : PortState) (trace : List Event)
  | fault (f : Fault)
  /-- WritePathRefused. -/
  | refused
  deriving DecidableEq, Repr

/-- TraceIssue at DIAG_LEVEL 1 and above (43 R209). -/
def traceIssue (c : Params) (img : Image) : List Event :=
  if 1 ≤ c.diagLevel then [.traceIssue (opcodeOf c img) (argOf c img) (flagsOf c img)] else []

/-- `admission` (43 R200): the checks in their order; the first that fails decides (60 R253 (c)). -/
def admission (c : Params) (p : PortState) (o : Owner) (img : Image) : Admission :=
  if p.call.isSome then .fault (.concurrentCommand o img)
  else if writeFlagOf c img ≠ 0 then .refused
  else if blocksOf c img ≠ 0 ∧ (ptrOf c img).toNat % 8 ≠ 0 then .fault (.misalignedDataBuffer (ptrOf c img))
  else if blocksOf c img ≠ 0 ∧ inBuffer c (ptrOf c img).toNat (transferLen c img) = false then
    .fault (.bufferOutOfRange (ptrOf c img).toNat (blocksOf c img).toNat (blkszOf c img).toNat)
  else if opcodeOf c img ≠ Config.opcSendStatus ∧ p.busyHazard = true then .fault (.busyHazard (opcodeOf c img))
  else .admitted { p with call := some ⟨o, img⟩ } (traceIssue c img)

/-- `emit XferReq(o, img)` (00 R12; 10 R36, R38): on admission the event is recorded, and `k` makes the requester's own changes. A
refused request is recorded too, with no trace of a call (60 R264); a fault leaves nothing but its own record (60 R254). -/
def submit (o : Owner) (img : Image) (k : State → State) (s : State) : State :=
  match admission s.cfg s.port o img with
  | .admitted p trace => k (log (.xferReq o img :: trace) { s with port := p })
  | .fault f => raise f s
  | .refused => refuseWrite o img s

/-! ### The answer (43 R204 to R209, R213) -/

/-- An outcome of the transport oracle: no error (XferOk) or an OS code (XferErr); the drawn response words; and the drawn
byte at each index of the transfer range. -/
structure Answer where
  err : Option Word
  resp : Resp
  data : Nat → Byte

/-- The oracle's draw (43 R204): success or failure, and every value, are free; a code is one of OS_ERR (log 8, 26). -/
def drawAnswer (c : Params) (n : Nat) : Answer where
  err := if Config.freeOk n then none else c.osErr[Config.freeCode n % c.osErr.length]?
  resp := ⟨Config.freeResp n 0, Config.freeResp n 1, Config.freeResp n 2, Config.freeResp n 3⟩
  data := Config.freeByte n

/-- The bytes the driver puts in the transfer range (43 R205, R206): none without a data phase. -/
def transferBytes (c : Params) (img : Image) (a : Answer) : List Byte :=
  if blocksOf c img = 0 then [] else (List.range (transferLen c img)).map a.data

/-- BUSY_HAZARD after an answer: set unless the request's OPCODE is 13 (43 R208). -/
def busyAfter (c : Params) (img : Image) (busy : Bool) : Bool :=
  if opcodeOf c img = Config.opcSendStatus then busy else true

/-- The event of an answer: XferOk with the image returned, or XferErr with the code unchanged (43 R205, R206, R211). -/
def answerEvent (img' : Image) (a : Answer) : Event :=
  match a.err with
  | none => .xferOk img'
  | some code => .xferErr code

/-- TraceResult at DIAG_LEVEL 2 and above (43 R209). -/
def traceResult (c : Params) (a : Answer) : List Event :=
  if 2 ≤ c.diagLevel then [.traceResult a.err a.resp] else []

/-- The answer's effects on the port and the host memory, and its events; XOWNER <- NONE in the same step (43 R205 to R208). -/
def answerPort (img : Image) (a : Answer) (s : State) : State :=
  log (answerEvent (setResp s.cfg img a.resp) a :: traceResult s.cfg a)
    { writeMem (ptrOf s.cfg img).toNat (transferBytes s.cfg img a) s with
      port := ⟨none, busyAfter s.cfg img s.port.busyHazard⟩ }

end Sys2Proof.Machine
end

