-- ==== Sys2Proof/Machine/PollFsm.lean ====
section
/-! DEFINITION. The status-polling state machine (spec/42_poll_fsm.md): `pollStep` is the function form of its transition table
(R160, R180), and the operations below run it inside a step of the client, POLL, the transport or the timer. -/

namespace Sys2Proof.Machine

/-- The inputs of POLL (42 R180). -/
inductive PollInput where
  | start (arg : Word)
  | issue
  | xferOk (img : Image)
  | xferErr (code : Word)
  | delayDone
  deriving DecidableEq, Repr

/-- What a transition leaves: the registers, BUSY_HAZARD, the events it emits, and its Done (42 R173), if it ends the
invocation. -/
structure PollOut where
  regs : PollRegs
  busy : Bool
  events : List Event
  done : Option (OpResult × Option Word)
  deriving DecidableEq, Repr

/-- START (42 R161). PDESC keeps its image. -/
def pollStart (r : PollRegs) (arg : Word) : PollRegs :=
  { r with
    pstate := .checking
    phase := .issue
    attempts := 0
    arg := some arg
    lastResp := none
    result := .none
    errcode := none }

/-- ISSUE (42 R166) with the given status argument. -/
def pollIssued (c : Params) (r : PollRegs) (arg : Word) : PollRegs :=
  { r with pdesc := some (sendStatusImg c arg), attempts := r.attempts + 1, phase := .waitRsp }

/-- A terminal transition: the state, RESULT, and (state, IDLE). -/
def pollEnd (r : PollRegs) (p : PState) (res : OpResult) : PollRegs := { r with pstate := p, phase := .idle, result := res }

/-- PDESC and LAST_RESP of a successful answer (42 R168 to R170). -/
def pollAnswered (c : Params) (r : PollRegs) (img : Image) : PollRegs :=
  { r with pdesc := some img, lastResp := some (respOf c img).r0 }

/-- A transition that ends the invocation: its Done carries ERRCODE exactly for TRANSPORT (42 R173). -/
def pollFinish (r : PollRegs) (busy : Bool) (res : OpResult) (code : Option Word) : PollOut :=
  ⟨r, busy, [.done res code], some (res, code)⟩

/-- RSP_READY, RSP_BUSY and RSP_LAST (42 R168 to R170). -/
def pollRspOk (c : Params) (r : PollRegs) (busy : Bool) (img : Image) : Option PollOut :=
  let r' := pollAnswered c r img
  if isReady (respOf c img).r0 then some (pollFinish (pollEnd r' .ready .ok) false .ok none)
  else if r.attempts.toNat < Config.maxAttempts ∨ c.delayAfterLast = true then
    some ⟨{ r' with phase := .delay }, busy, [.delayReq Config.pollDelayMs], none⟩
  else if r.attempts.toNat = Config.maxAttempts then
    some (pollFinish (pollEnd r' .exhausted .timeout) busy .timeout none)
  else none

/-- RSP_ERR (42 R167). -/
def pollRspErr (r : PollRegs) (busy : Bool) (code : Word) : PollOut :=
  pollFinish { pollEnd r .failed .transport with errcode := some code } busy .transport (some code)

/-- DLY_NEXT and DLY_LAST (42 R171, R172). -/
def pollDelayDone (r : PollRegs) (busy : Bool) : Option PollOut :=
  if r.attempts.toNat < Config.maxAttempts then some ⟨{ r with phase := .issue }, busy, [], none⟩
  else if r.attempts.toNat = Config.maxAttempts then some (pollFinish (pollEnd r .exhausted .timeout) busy .timeout none)
  else none

/-- `pollStep` (42 R160, R180): the transition for an input, `none` where no row of the table matches, or the fault it raises.
`cpc` is what StartWhileBusy records (60 R245). The XferReq of ISSUE is emitted by `submit`, which may refuse it. -/
def pollStep (c : Params) (cpc : Nat) (r : PollRegs) (busy : Bool) (i : PollInput) : Except Fault (Option PollOut) :=
  match i with
  | .start arg =>
    if r.pstate = .checking then .error (.startWhileBusy cpc) else .ok (some ⟨pollStart r arg, busy, [], none⟩)
  | .issue =>
    if r.pstate = .checking ∧ r.phase = .issue then
      match r.arg with
      | some arg => .ok (some ⟨pollIssued c r arg, busy, [], none⟩)
      | none => .error (.unwrittenRead (.reg 3))
    else .ok none
  | .xferOk img => .ok (if r.pstate = .checking ∧ r.phase = .waitRsp then pollRspOk c r busy img else none)
  | .xferErr code => .ok (if r.pstate = .checking ∧ r.phase = .waitRsp then some (pollRspErr r busy code) else none)
  | .delayDone => .ok (if r.pstate = .checking ∧ r.phase = .delay then pollDelayDone r busy else none)

/-! ### The client's side of a Done (42 R161; 44 R230) -/

/-- `out:` of FETCH_EXTCSD (44 R230): CRESULT, CW[DST] and FSTEP <- no value; the request is complete. -/
def finishFetch (dst : Fin 32) (r : OpResult) (s : State) : State :=
  advance 1 (writeCw dst (resultCode r) { s with cresult := r, client := .ready })

/-- The client receives Done(r, code): an ENSURE_READY is complete; the check of a FETCH_EXTCSD at step 2 or 4 goes on or ends
the sequence. No other client waits for a Done. -/
def deliverDone (r : OpResult) (code : Option Word) (s : State) : State :=
  match s.client with
  | .awaitDone dst => advance 2 (writeCw dst (resultCode r) { s with client := .ready })
  | .fetching dst .two true =>
    if r = .ok then { s with client := .fetching dst .two false } else finishFetch dst r { s with cerr := code }
  | .fetching dst .four true => finishFetch dst r (if r = .ok then s else { s with cerr := code })
  | .ready | .awaitXfer .. | .finished | .fetching _ .two false | .fetching _ .four false | .fetching _ .one _
  | .fetching _ .three _ | .fetching _ .five _ => s

/-- A transition's effects on the state, its Done delivered in the same step (44 R220). -/
def applyPoll (out : PollOut) (s : State) : State :=
  let s' := log out.events { s with poll := out.regs, port := { s.port with busyHazard := out.busy } }
  match out.done with
  | some (r, code) => deliverDone r code s'
  | none => s'

/-! ### POLL inside the steps of its agents -/

/-- START by the client, who then waits in the state `next`; the request is recorded on the REQ port (42 R161, R162). -/
def startPoll (dst : Fin 32) (arg : Word) (next : ClientState) (s : State) : State :=
  match pollStep s.cfg s.cpc s.poll s.port.busyHazard (.start arg) with
  | .ok (some out) => { applyPoll out (log [.req (.ensureReady dst arg)] s) with client := next }
  | .ok none => s
  | .error f => raise f s

/-- ISSUE, POLL's own step (42 R166). -/
def issueStep (s : State) : State :=
  match pollStep s.cfg s.cpc s.poll s.port.busyHazard .issue with
  | .ok (some out) =>
    match out.regs.pdesc with
    | some img => submit .poll img (fun s' => { s' with poll := out.regs }) s
    | none => s
  | .ok none => s
  | .error f => raise f s

/-- DelayDone, the timer's step (42 R171, R172; 60 R257). -/
def timerStep (s : State) : State :=
  match pollStep s.cfg s.cpc s.poll s.port.busyHazard .delayDone with
  | .ok (some out) => applyPoll out (log [.delayDone] s)
  | .ok none => s
  | .error f => raise f s

/-- POLL takes an answer (42 R167 to R170); an answer no row of 42 R160 matches changes nothing (log 20). -/
def pollTakes (img' : Image) (err : Option Word) (s : State) : State :=
  match pollStep s.cfg s.cpc s.poll s.port.busyHazard (match err with | none => .xferOk img' | some e => .xferErr e) with
  | .ok (some out) => applyPoll out s
  | .ok none => s
  | .error f => raise f s

end Sys2Proof.Machine
end

