-- ==== Sys2Proof/Machine/Client.lean ====
section
/-! DEFINITION. The meanings of the client's own requests (spec/44_extcsd_client.md): HALT, MOVI, JZ, JNZ, EXECUTE, ZERO_BUF,
READ_BUF and FETCH_EXTCSD, and the steps a FETCH_EXTCSD takes after its first. -/

namespace Sys2Proof.Machine

/-- HALT (44 R222): the client has finished; CPC is unchanged. -/
def execHalt (s : State) : Host.Outcome State Fault Refusal := .next { s with client := .finished }

/-- MOVI (44 R223). -/
def execMovi (dst : Fin 32) (v : Word) (s : State) : Host.Outcome State Fault Refusal :=
  .next (advance 2 (writeCw dst v s))

/-- A jump to word index `t` when `taken`, otherwise past the request's two words (44 R224, R225). -/
def jumpIf (taken : Bool) (t : Word) (s : State) : State := if taken then { s with cpc := t.toNat } else advance 2 s

/-- JZ (44 R224). -/
def execJz (src : Fin 32) (t : Word) (s : State) : Host.Outcome State Fault Refusal :=
  .next (withCw src (fun w => jumpIf (decide (w = 0)) t) s)

/-- JNZ (44 R225). -/
def execJnz (src : Fin 32) (t : Word) (s : State) : Host.Outcome State Fault Refusal :=
  .next (withCw src (fun w => jumpIf (decide (w ≠ 0)) t) s)

/-- EXECUTE (44 R226): the descriptor is submitted; the client waits for the answer, which writes CD[src] and CW[dst]. -/
def execExecute (dst : Fin 32) (src : Fin 16) (s : State) : Host.Outcome State Fault Refusal :=
  .next (withCd src (fun img => submit .client img (fun s => { s with client := .awaitXfer dst src })) s)

/-- ZERO_BUF (44 R227). -/
def execZeroBuf (s : State) : Host.Outcome State Fault Refusal := .next (zeroFill (advance 1) s)

/-- READ_BUF (44 R228). -/
def execReadBuf (dst : Fin 32) (off : Word) (s : State) : Host.Outcome State Fault Refusal :=
  .next (ifLegal (.readBuf dst off)
    (withMem32 (s.cfg.bufAddr.toNat + off.toNat) (fun v s => advance 2 (writeCw dst v s))) s)

/-- FETCH_EXTCSD (44 R230, R231): its first step. CERR <- no value, FSTEP <- 1, and the buffer is zeroed. The later steps are
`fetchContinue`, taken by the client between the answers it waits for (log 11). -/
def execFetchExtcsd (dst : Fin 32) (s : State) : Host.Outcome State Fault Refusal :=
  .next (zeroFill (fun s => { s with cerr := none, client := .fetching dst .one false }) s)

/-- The client's own later steps of FETCH_EXTCSD, each after the step named is complete (44 R232 to R235): the first check, the
CMD8, the second check, and the end. -/
def fetchContinue (dst : Fin 32) (done : FStep) (s : State) : State :=
  match done with
  | .one => startPoll dst s.cfg.statusArg (.fetching dst .two true) s
  | .two =>
    submit .client (sendExtCsdImg s.cfg s.cfg.bufAddr) (fun s => { s with client := .fetching dst .three true }) s
  | .three => startPoll dst s.cfg.statusArg (.fetching dst .four true) s
  | .four => finishFetch dst .ok s
  | .five => finishFetch dst .ok s

end Sys2Proof.Machine
end

