-- ==== Sys2Proof/Machine/Transport.lean ====
section
/-! DEFINITION. The transport agent (spec/43_transport_port.md): it performs the outstanding control call and delivers the
answer to its owner (R204 to R208). Its instructions are the descriptor it is given: SEND_STATUS_DESC, SEND_EXT_CSD_DESC, or
MMC_CONTROL_CALL for a call that carries any other descriptor (30 R81 to R83, 43 R210; log 14). -/

namespace Sys2Proof.Machine

/-- The client receives an answer: an EXECUTE is complete (44 R226); the CMD8 of a FETCH_EXTCSD goes on, or ends the sequence
with TRANSPORT (44 R233). No other client waits for an answer (log 20). -/
def clientTakes (img' : Image) (err : Option Word) (s : State) : State :=
  match s.client with
  | .awaitXfer dst src => advance 1 (writeCw dst (err.getD 0) (writeCd src img' { s with client := .ready }))
  | .fetching dst .three true =>
    match err with
    | none => { s with client := .fetching dst .three false }
    | some code => finishFetch dst .transport { s with cerr := some code }
  | .ready | .awaitDone _ | .finished | .fetching _ .three false | .fetching _ .one _ | .fetching _ .two _
  | .fetching _ .four _ | .fetching _ .five _ => s

/-- The answer `a` to a call of `o` with the image `img`: the port's and the memory's changes, and the delivery, in one step
(43 R205 to R208; 20 R59). A transfer past 2^64-1 raises BufferOutOfRange (20 R51; log 17). -/
def answerCall (o : Owner) (img : Image) (a : Answer) (s : State) : State :=
  if addrOk (ptrOf s.cfg img).toNat (transferBytes s.cfg img a).length then
    match o with
    | .poll => pollTakes (setResp s.cfg img a.resp) a.err (answerPort img a s)
    | .client => clientTakes (setResp s.cfg img a.resp) a.err (answerPort img a s)
  else
    raise (.bufferOutOfRange (ptrOf s.cfg img).toNat (blocksOf s.cfg img).toNat (blkszOf s.cfg img).toNat) s

/-- The transport performs a call with the image `img` for the owner of the outstanding request; the answer is drawn. With no
request outstanding the agent has no step (43 R207). -/
def performCall (img : Image) (s : State) : Host.Outcome State Fault Refusal :=
  match s.port.call with
  | some call => .next (answerCall call.owner img (drawAnswer s.cfg s.draws) { s with draws := s.draws + 1 })
  | none => .refused .noCallOutstanding

/-- SEND_STATUS_DESC (40 R110): the transport performs a CMD13. -/
def execSendStatusDesc (arg : Word) (r : Resp) (s : State) : Host.Outcome State Fault Refusal :=
  performCall (setResp s.cfg (sendStatusImg s.cfg arg) r) s

/-- SEND_EXT_CSD_DESC (40 R111): the transport performs a CMD8. -/
def execSendExtCsdDesc (r : Resp) (p : DWord) (s : State) : Host.Outcome State Fault Refusal :=
  performCall (setResp s.cfg (sendExtCsdImg s.cfg p) r) s

/-- MMC_CONTROL_CALL (30 R83, 43 R210): the transport performs the one control call that carries the outstanding image. -/
def execMmcControlCall (s : State) : Host.Outcome State Fault Refusal :=
  match s.port.call with
  | some call => performCall call.image s
  | none => .refused .noCallOutstanding

end Sys2Proof.Machine
end

