-- ==== Sys2Proof/Machine/Agents.lean ====
section
/-! DEFINITION. Whose step is next and what it does (00 R14, 60 R253, 44 R221): the agents that have a step, the choice between
them, the fetch of the client's request and of the transport's descriptor, the boot, and the placing of an instruction where
the next step fetches it. -/

namespace Sys2Proof.Machine

/-- The agents (00 R14). -/
inductive Agent where
  | client
  | poll
  | transport
  | timer
  deriving DecidableEq, Repr

/-- What the next step does. -/
inductive Plan where
  /-- An instruction is executed in a state. -/
  | exec (i : Instr) (s : State)
  /-- A transition that has no encoding leaves a state. -/
  | move (s : State)
  | fault (f : Fault)
  | refused (r : Refusal)
  deriving DecidableEq, Repr

/-- The agent was refused a write command, and has no further step (60 R264). -/
def isRefused (o : Owner) (s : State) : Bool := decide (s.refused = some (.writePathRefused o))

/-- The client has a step: it is at a request, or inside a FETCH_EXTCSD and not waiting (44 R220). -/
def clientEnabled (s : State) : Bool :=
  !isRefused .client s &&
    match s.client with
    | .ready => true
    | .fetching _ _ waiting => !waiting
    | .awaitDone _ | .awaitXfer _ _ | .finished => false

/-- POLL has a step of its own: ISSUE (42 R166, R174). -/
def pollEnabled (s : State) : Bool :=
  !isRefused .poll s && decide (s.poll.pstate = .checking ∧ s.poll.phase = .issue)

/-- The transport has a step: XOWNER is not NONE (43 R207, R213). -/
def transportEnabled (s : State) : Bool := s.port.call.isSome

/-- The timer has a step: a delay is outstanding and DelayDone has a transition (60 R257, 42 R171, R172). -/
def timerEnabled (s : State) : Bool :=
  decide (s.poll.pstate = .checking ∧ s.poll.phase = .delay) && (pollDelayDone s.poll s.port.busyHazard).isSome

/-- The agents that have a step. -/
def enabled (s : State) : List Agent :=
  (if clientEnabled s then [.client] else []) ++ (if pollEnabled s then [.poll] else []) ++
    (if transportEnabled s then [.transport] else []) ++ (if timerEnabled s then [.timer] else [])

/-- The run has ended well (00 R18). -/
def endsWell (s : State) : Bool :=
  decide (s.client = .finished ∧ s.poll.pstate ≠ .checking ∧ s.port.call = none ∧ s.poll.phase ≠ .delay ∧
    s.fault = none ∧ s.refused = none)

/-- Fetch and dispatch (44 R221): the request at CPC, or IllegalRequest with CPC and the header word (30 R86, R89; 60 R251). -/
def fetchRequest (s : State) : Plan :=
  match decodeFrame (s.program.drop s.cpc) with
  | .ok (i, _) => .exec i s
  | .error _ => .move (raise (.illegalRequest s.cpc s.program[s.cpc]?) s)

/-- The step of one agent. -/
def turn (a : Agent) (s : State) : Plan :=
  match a with
  | .client =>
    match s.client with
    | .fetching dst done false => .move (fetchContinue dst done s)
    | .ready | .awaitDone _ | .awaitXfer _ _ | .finished | .fetching _ _ true => fetchRequest s
  | .poll => .move (issueStep s)
  | .transport =>
    match s.port.call with
    | some call => .exec (decodeImage s.cfg call.image) s
    | none => .refused .noCallOutstanding
  | .timer => .move (timerStep s)

/-- The next step: none in a faulted state (60 R243); that of the one enabled agent; or of any of several (60 R253 (b), a free
choice: log 9). -/
def plan (s : State) : Plan :=
  match s.fault with
  | some f => .fault f
  | none =>
    match enabled s with
    | [] =>
      .refused (if s.refused.isSome then .writePathRefused else if endsWell s then .runEnded else .stuck)
    | [a] => turn a s
    | a :: as =>
      turn ((a :: as)[Config.freeAgent s.draws % (a :: as).length]?.getD a) { s with draws := s.draws + 1 }

/-! ### Boot (70 R270, R273; 60 R263) -/

/-- The configuration check: the layout check, MAX_ATTEMPTS at least 1, and every parameter in its range (60 R263). -/
def configCheck (c : Params) : Bool :=
  layoutCheck (layoutTable c.layout) offPtr && decide (1 ≤ Config.maxAttempts) && c.inRange

/-- What holds before the first step (70 R273): the configuration passes its check, and the client's program is loaded with
CPC = 0. A configuration that fails has no run. -/
def boot (c : Params) (program : List Word) : Host.Outcome State Fault Refusal :=
  if configCheck c then .next { resetWith c with program := program } else .refused .configRefused

/-! ### Placing an instruction where the next step fetches it (log 15, 28) -/

/-- The program with the given words from index `k` on, padded with zeros below. -/
def placeWords (program : List Word) (k : Nat) (ws : List Word) : List Word :=
  program.take k ++ List.replicate (k - program.length) 0 ++ ws ++ program.drop (k + ws.length)

/-- No fault, no refusal, no call outstanding, and POLL not in CHECKING, so that no agent but the one chosen has a step. -/
def quiet (s : State) : State :=
  { s with
    fault := none
    refused := none
    port := { s.port with call := none }
    poll := { s.poll with
      pstate := if s.poll.pstate = .checking then .unknown else s.poll.pstate
      phase := .idle } }

/-- A frame is placed in the program at CPC, with the client at a request; a descriptor image is the outstanding request of a
client that waits in EXECUTE cw0, cd0; the control call carries an image of 72 zero bytes. -/
def placeCode (code : Code) (s : State) : State :=
  match code with
  | .frame ws => { quiet s with client := .ready, program := placeWords s.program s.cpc ws }
  | .image img => { quiet s with client := .awaitXfer 0 0, port := { s.port with call := some ⟨.client, img⟩ } }
  | .call _ => { quiet s with client := .awaitXfer 0 0, port := { s.port with call := some ⟨.client, zeros72⟩ } }

end Sys2Proof.Machine
end

