-- ==== Sys2Proof/Machine/Codec.lean ====
section
/-! DEFINITION. The meanings of the CODEC requests BUILD, WITH_TIMEOUT, WITH_DATA, PACK and UNPACK (spec/40_codec.md). Each reads
only its operands, writes only its destination, answers on the REQ port in the same step, and makes no other port transaction
(40 R108, 10 R36). -/

namespace Sys2Proof.Machine

/-- A CODEC request `i` that leaves the image `img` in CD[dst]: the Reply carries the image. -/
def replyImage (i : Instr) (dst : Fin 16) (img : Image) (s : State) : State :=
  advance (frameLength i) (log [.req i, .reply (.image img)] (writeCd dst img s))

/-- BUILD (40 R104). -/
def execBuild (dst : Fin 16) (op arg fl : Word) (s : State) : Host.Outcome State Fault Refusal :=
  .next (replyImage (.build dst op arg fl) dst (buildImg s.cfg op arg fl) s)

/-- WITH_TIMEOUT (40 R105). -/
def execWithTimeout (dst src : Fin 16) (cms dns : Word) (s : State) : Host.Outcome State Fault Refusal :=
  .next (withCd src (fun img => replyImage (.withTimeout dst src cms dns) dst (withTimeoutImg s.cfg img cms dns)) s)

/-- WITH_DATA (40 R106): no alignment or range check here. -/
def execWithData (dst src : Fin 16) (addr : DWord) (cnt sz : Word) (s : State) : Host.Outcome State Fault Refusal :=
  .next (withCd src (fun img => replyImage (.withData dst src addr cnt sz) dst (withDataImg s.cfg img addr cnt sz)) s)

/-- PACK (40 R101). -/
def execPack (dst : Fin 16) (f : Fields) (s : State) : Host.Outcome State Fault Refusal :=
  .next (replyImage (.pack dst f) dst (packImg s.cfg f) s)

/-- The sixteen words of an image into CW[dst..dst+15] (40 R102). -/
def unpackInto (dst : Fin 32) (src : Fin 16) (img : Image) (s : State) : State :=
  advance 1 (log [.req (.unpack dst src), .reply (.words (fieldWords (unpackImg s.cfg img)))]
    (writeCws dst (fieldWords (unpackImg s.cfg img)) s))

/-- UNPACK (40 R102). -/
def execUnpack (dst : Fin 32) (src : Fin 16) (s : State) : Host.Outcome State Fault Refusal :=
  .next (ifLegal (.unpack dst src) (withCd src (fun img => unpackInto dst src img)) s)

end Sys2Proof.Machine
end

