-- ==== Sys2Proof/Machine/Decoder.lean ====
section
/-! DEFINITION. The meanings of the DECODER requests RFD, CSTATE and ISREADY (spec/41_decoder.md), and the reply of a word that
READ_STATUS shares. -/

namespace Sys2Proof.Machine

/-- A request `i` that leaves the word `v` in CW[dst] and replies with it in the same step (10 R36). -/
def replyWord (i : Instr) (dst : Fin 32) (v : Word) (s : State) : State :=
  advance (frameLength i) (log [.req i, .reply (.word v)] (writeCw dst v s))

/-- RFD (41 R140). -/
def execRfd (dst src : Fin 32) (s : State) : Host.Outcome State Fault Refusal :=
  .next (withCw src (fun w => replyWord (.rfd dst src) dst (boolWord (rfd w))) s)

/-- CSTATE (41 R141). -/
def execCstate (dst src : Fin 32) (s : State) : Host.Outcome State Fault Refusal :=
  .next (withCw src (fun w => replyWord (.cstate dst src) dst ((cstate w).setWidth 32)) s)

/-- ISREADY (41 R142). -/
def execIsReady (dst src : Fin 32) (s : State) : Host.Outcome State Fault Refusal :=
  .next (withCw src (fun w => replyWord (.isReady dst src) dst (boolWord (isReady w))) s)

end Sys2Proof.Machine
end

