-- ==== Sys2Proof/Machine/Poll.lean ====
section
/-! DEFINITION. The meanings of the POLL requests ENSURE_READY and READ_STATUS (42 R161, R162, R181). -/

namespace Sys2Proof.Machine

/-- ENSURE_READY (42 R161): START; the client then waits for Done, which writes CW[dst] and completes the request. While
PSTATE = CHECKING it raises StartWhileBusy and changes no register (42 R162). -/
def execEnsureReady (dst : Fin 32) (arg : Word) (s : State) : Host.Outcome State Fault Refusal :=
  .next (startPoll dst arg (.awaitDone dst) s)

/-- PDESC to CD[dst]; a legal request has dst at most 15. -/
def readPdesc (dst : Fin 32) (s : State) : State :=
  withPdesc (fun img s =>
    advance 1 (log [.req (.readStatus dst 7), .reply (.image img)] { s with cd := s.cd.setIfInBounds dst (some img) })) s

/-- READ_STATUS (42 R181): no side effect on POLL. -/
def execReadStatus (dst : Fin 32) (reg : Fin 8) (s : State) : Host.Outcome State Fault Refusal :=
  .next (ifLegal (.readStatus dst reg)
    (fun s => if reg = 7 then readPdesc dst s else withPollWord reg (fun v => replyWord (.readStatus dst reg) dst v) s) s)

end Sys2Proof.Machine
end

