-- ==== Sys2Proof/Machine/Dispatch.lean ====
section
/-! DEFINITION. The dispatch: one arm per constructor of `Instr`, each a direct call of that instruction's meaning. -/

namespace Sys2Proof.Machine

def exec (i : Instr) (s : State) : Host.Outcome State Fault Refusal :=
  match i with
  | .halt => Sys2Proof.Machine.execHalt s
  | .build dst op arg fl => Sys2Proof.Machine.execBuild dst op arg fl s
  | .withTimeout dst src cms dns => Sys2Proof.Machine.execWithTimeout dst src cms dns s
  | .withData dst src addr cnt sz => Sys2Proof.Machine.execWithData dst src addr cnt sz s
  | .pack dst f => Sys2Proof.Machine.execPack dst f s
  | .unpack dst src => Sys2Proof.Machine.execUnpack dst src s
  | .rfd dst src => Sys2Proof.Machine.execRfd dst src s
  | .cstate dst src => Sys2Proof.Machine.execCstate dst src s
  | .isReady dst src => Sys2Proof.Machine.execIsReady dst src s
  | .ensureReady dst arg => Sys2Proof.Machine.execEnsureReady dst arg s
  | .readStatus dst reg => Sys2Proof.Machine.execReadStatus dst reg s
  | .execute dst src => Sys2Proof.Machine.execExecute dst src s
  | .zeroBuf => Sys2Proof.Machine.execZeroBuf s
  | .readBuf dst off => Sys2Proof.Machine.execReadBuf dst off s
  | .movi dst v => Sys2Proof.Machine.execMovi dst v s
  | .jz src t => Sys2Proof.Machine.execJz src t s
  | .jnz src t => Sys2Proof.Machine.execJnz src t s
  | .fetchExtcsd dst => Sys2Proof.Machine.execFetchExtcsd dst s
  | .sendStatusDesc arg r => Sys2Proof.Machine.execSendStatusDesc arg r s
  | .sendExtCsdDesc r p => Sys2Proof.Machine.execSendExtCsdDesc r p s
  | .mmcControlCall => Sys2Proof.Machine.execMmcControlCall s

end Sys2Proof.Machine
end

