-- ==== Sys2Proof/Machine/Step.lean ====
section
/-! DEFINITION. One step of the machine: the plan of the next step, carried out. -/

namespace Sys2Proof.Machine

/-- One atomic transition of one agent (00 R14). -/
def step (s : State) : Host.Outcome State Fault Refusal :=
  match plan s with
  | .exec i s' => exec i s'
  | .move s' => .next s'
  | .fault f => .fault f
  | .refused r => .refused r

/-- `s` with the instruction whose bits are `w` stored where the next step fetches it. -/
def State.withFetchWord (s : State) (nbits w : Nat) : State := placeCode (tableCode nbits w) s

end Sys2Proof.Machine
end

