-- ==== Sys2Proof/Safety.lean ====
section
/-! DEFINITION. What counts as a safe run, in the terms the statements use: the end of a run (00 R18), the synchronous discipline
between the agents (20 R65, 44 R220), the registers of POLL (10 R24, R25, R28, R29; 42 R175), the outstanding call (43 R200), the
buffer of a fetch (44 R238 (a)), and the count of events of one invocation (10 R38; 42 R175, R176). -/

namespace Sys2Proof.Machine

/-- The run has ended well (00 R18). -/
def EndsWell (s : State) : Prop := endsWell s = true

/-! ### The agents wait for each other (20 R65; 44 R220; 43 R207) -/

/-- The client waits for a Done. -/
def awaitsDone : ClientState → Bool
  | .awaitDone _ => true
  | .fetching _ .two true => true
  | .fetching _ .four true => true
  | .ready | .awaitXfer .. | .finished | .fetching _ .two false | .fetching _ .four false | .fetching _ .one _
  | .fetching _ .three _ | .fetching _ .five _ => false

/-- The client waits for an answer of the transport. -/
def awaitsAnswer : ClientState → Bool
  | .awaitXfer .. => true
  | .fetching _ .three true => true
  | .ready | .awaitDone _ | .finished | .fetching _ .three false | .fetching _ .one _ | .fetching _ .two _
  | .fetching _ .four _ | .fetching _ .five _ => false

/-- The client never waits at step 1 of a fetch, and never stops at step 4 or 5 without waiting: the Done of the second check
completes the request (44 R220). -/
def fetchPlace : ClientState → Bool
  | .fetching _ .one true | .fetching _ .four false | .fetching _ .five _ => false
  | .fetching _ .one false | .fetching _ .two _ | .fetching _ .three _ | .fetching _ .four true => true
  | .ready | .awaitDone _ | .awaitXfer .. | .finished => true

/-- POLL is at work exactly while the client waits for its Done; PHASE = IDLE exactly when PSTATE is not CHECKING (10 R24); a
call is outstanding for POLL exactly in WAIT_RSP, and for the client exactly while it waits for an answer. -/
abbrev Synchronous (s : State) : Prop :=
  (s.poll.pstate = .checking ↔ s.poll.phase ≠ .idle) ∧
    (s.poll.pstate = .checking ↔ awaitsDone s.client = true) ∧
    (s.xowner = some .poll ↔ s.poll.phase = .waitRsp) ∧
    (s.xowner = some .client ↔ awaitsAnswer s.client = true) ∧
    fetchPlace s.client = true

/-! ### The registers of POLL -/

/-- LAST_RESP holds a value, and the word is ready as given. -/
def lastReady (r : PollRegs) (b : Bool) : Bool :=
  match r.lastResp with
  | some w => isReady w == b
  | none => false

/-- The budget (10 R25; 42 R166, R169): ATTEMPTS is at most MAX_ATTEMPTS, and below it where the next step issues; at least one
attempt is made before an answer or a delay; a delay after the last attempt needs DELAY_AFTER_LAST; ARG holds a value. -/
abbrev PollBudget (c : Params) (r : PollRegs) : Prop :=
  r.attempts.toNat ≤ Config.maxAttempts ∧
    (r.phase = .issue → r.attempts.toNat < Config.maxAttempts) ∧
    (r.phase = .waitRsp ∨ r.phase = .delay → 1 ≤ r.attempts.toNat) ∧
    (r.phase = .delay → r.attempts.toNat < Config.maxAttempts ∨ c.delayAfterLast = true) ∧
    (r.pstate = .checking → r.arg.isSome = true)

/-- RESULT names the terminal state; ERRCODE holds a value exactly for TRANSPORT (10 R28, R29); READY means the last word was
ready, and EXHAUSTED that all MAX_ATTEMPTS attempts were made and the last word was not (42 R175 (c), (d)); a delay follows a word
that was not ready (42 R169). -/
abbrev PollResult (r : PollRegs) : Prop :=
  (r.result = .none ↔ r.pstate = .unknown ∨ r.pstate = .checking) ∧
    (r.result = .ok ↔ r.pstate = .ready) ∧
    (r.result = .timeout ↔ r.pstate = .exhausted) ∧
    (r.result = .transport ↔ r.pstate = .failed) ∧
    (r.errcode.isSome = true ↔ r.result = .transport) ∧
    (r.pstate = .ready → lastReady r true = true) ∧
    (r.pstate = .exhausted → r.attempts.toNat = Config.maxAttempts ∧ lastReady r false = true) ∧
    (r.phase = .delay → lastReady r false = true)

/-! ### The outstanding call -/

/-- A call passed the checks of admission (43 R200): it is no write, and its data phase is aligned and inside the buffer; POLL's
call is a CMD13 without a data phase; the call of a fetch is the CMD8 preset for the buffer (44 R233). -/
def callLegal (c : Params) (cl : ClientState) (call : Call) : Bool :=
  decide (writeFlagOf c call.image = 0) &&
    decide (blocksOf c call.image ≠ 0 →
      (ptrOf c call.image).toNat % 8 = 0 ∧ inBuffer c (ptrOf c call.image).toNat (transferLen c call.image) = true) &&
    match call.owner with
    | .poll => decide (opcodeOf c call.image = Config.opcSendStatus ∧ blocksOf c call.image = 0)
    | .client =>
      match cl with
      | .fetching .. => decide (call.image = sendExtCsdImg c c.bufAddr)
      | .ready | .awaitDone _ | .awaitXfer .. | .finished => true

abbrev CallLegal (s : State) : Prop :=
  match s.port.call with
  | some call => callLegal s.cfg s.client call = true
  | none => True

/-! ### The buffer of a fetch (44 R231, R238 (a)) -/

/-- The fetch has zeroed the buffer and the CMD8 has not been answered. -/
def beforeRead : ClientState → Bool
  | .fetching _ .one _ | .fetching _ .two _ | .fetching _ .three true => true
  | .fetching _ .three false | .fetching _ .four _ | .fetching _ .five _ => false
  | .ready | .awaitDone _ | .awaitXfer .. | .finished => false

/-- Every byte of the client buffer is 0. -/
def BufferZero (s : State) : Prop :=
  ∀ k, k < Config.extcsdBytes → memByte s.mem (s.cfg.bufAddr.toNat + k) = some 0

/-! ### The invariant of every step -/

/-- What every step keeps, and what reset has. -/
structure Consistent (s : State) : Prop where
  sync : Synchronous s
  budget : PollBudget s.cfg s.poll
  result : PollResult s.poll
  call : CallLegal s
  mem : Memory.wf s.mem = true
  fetch : beforeRead s.client = true → BufferZero s
  /-- The first check of a fetch returned OK, and no answer has set BUSY_HAZARD since (44 R233). -/
  clear : ∀ dst, s.client = .fetching dst .two false → s.port.busyHazard = false
  /-- CERR holds a value only beside CRESULT = TRANSPORT, and not during a fetch (44 R230, R237). -/
  cerr : s.cerr.isSome = true → s.cresult = .transport ∧ s.fstep = none

/-! ### The events of one invocation (10 R38; 42 R175, R176) -/

/-- The request that starts an invocation. -/
def isStart : Event → Bool
  | .req (.ensureReady _ _) => true
  | _ => false

/-- The history after the last ENSURE_READY request. -/
def sinceStart (h : List Event) : List Event := (h.reverse.takeWhile (fun e => !isStart e)).reverse

/-- A status command issued by POLL. -/
def isPollIssue : Event → Bool
  | .xferReq .poll _ => true
  | _ => false

/-- A delay request. -/
def isDelayReq : Event → Bool
  | .delayReq _ => true
  | _ => false

/-- I of 42 R175: the status commands POLL issued since the last ENSURE_READY. -/
def issues (s : State) : Nat := (sinceStart s.history).countP isPollIssue

/-- D of 42 R176: the delays since the last ENSURE_READY. -/
def delays (s : State) : Nat := (sinceStart s.history).countP isDelayReq

/-- A Done. -/
def isDone : Event → Bool
  | .done _ _ => true
  | _ => false

/-- The Dones since the last ENSURE_READY (42 R173). -/
def dones (s : State) : Nat := (sinceStart s.history).countP isDone

/-- The counts at every point of an invocation: I = ATTEMPTS; each attempt after the first follows one delay; the delays of
a finished invocation are those of 42 R176; and an invocation has one Done once it has ended, and none before. -/
def InvocationCounts (s : State) : Prop :=
  match s.poll.pstate with
  | .unknown => True
  | .checking =>
    issues s = s.poll.attempts.toNat ∧ dones s = 0 ∧
      (if s.poll.phase = .waitRsp then delays s + 1 = s.poll.attempts.toNat else delays s = s.poll.attempts.toNat)
  | .ready | .failed =>
    issues s = s.poll.attempts.toNat ∧ dones s = 1 ∧ 1 ≤ issues s ∧ issues s ≤ Config.maxAttempts ∧
      delays s + 1 = s.poll.attempts.toNat
  | .exhausted =>
    issues s = Config.maxAttempts ∧ dones s = 1 ∧
      delays s = (if s.cfg.delayAfterLast then Config.maxAttempts else Config.maxAttempts - 1)

/-! ### One answer for each admitted request (43 R207, R210) -/

/-- A request that passed the first check of admission, WRITE_FLAG = 0. Every such request in a history was admitted: a refused
one is a write (60 R264), and one that faults is not recorded (60 R254). -/
def isAdmittedReq (c : Params) : Event → Bool
  | .xferReq _ img => decide (writeFlagOf c img = 0)
  | _ => false

def isAnswer : Event → Bool
  | .xferOk _ => true
  | .xferErr _ => true
  | _ => false

/-- Every admitted request of the run has been answered exactly once, but for the one that is outstanding. -/
def OneAnswerEach (s : State) : Prop :=
  s.history.countP (isAdmittedReq s.cfg) = s.history.countP isAnswer + (if s.port.call.isSome then 1 else 0)

/-! ### The order of events inside one invocation (42 R177) -/

/-- How far an invocation has come, with the number of its attempts. -/
inductive Stage where
  /-- No invocation is in progress. -/
  | idle
  /-- The next event is an XferReq of POLL. -/
  | issue (n : Nat)
  /-- The next event is the answer. -/
  | waiting (n : Nat)
  /-- The answer was not ready. -/
  | notReady (n : Nat)
  /-- The next event is a DelayDone. -/
  | delay (n : Nat)
  /-- The next event is this Done. -/
  | ending (r : OpResult) (code : Option Word)
  deriving DecidableEq, Repr

/-- What an event does to the stage; none where 42 R177 does not allow the event there. Traces and faults may stand anywhere;
the client's own commands, requests and their answers only where no invocation is in progress. -/
def stageAfter (c : Params) : Stage → Event → Option Stage
  | st, .traceIssue .. | st, .traceResult .. | st, .fault _ => some st
  | .idle, .req (.ensureReady _ _) => some (.issue 0)
  | .idle, .req _ | .idle, .reply _ | .idle, .xferReq .client _ | .idle, .xferOk _ | .idle, .xferErr _ => some .idle
  | .issue n, .xferReq .poll _ => if n < Config.maxAttempts then some (.waiting (n + 1)) else none
  | .waiting n, .xferOk img => if isReady (respOf c img).r0 then some (.ending .ok none) else some (.notReady n)
  | .waiting _, .xferErr code => some (.ending .transport (some code))
  | .notReady n, .delayReq ms => if ms = Config.pollDelayMs then some (.delay n) else none
  | .notReady n, .done r code =>
    if n = Config.maxAttempts ∧ c.delayAfterLast = false ∧ r = .timeout ∧ code = none then some .idle else none
  | .delay n, .delayDone => if n < Config.maxAttempts then some (.issue n) else some (.ending .timeout none)
  | .ending r code, .done r' code' => if r = r' ∧ code = code' then some .idle else none
  | _, _ => none

/-- The stage a history leads to. -/
def stageOf (c : Params) (h : List Event) : Option Stage := h.foldlM (stageAfter c) .idle

/-- The stage POLL's registers say. -/
def pollStage (r : PollRegs) : Stage :=
  match r.phase with
  | .idle => .idle
  | .issue => .issue r.attempts.toNat
  | .waitRsp => .waiting r.attempts.toNat
  | .delay => .delay r.attempts.toNat

/-- The events of the run so far come in the order of 42 R177, and lead to where POLL is. -/
def EventsInOrder (s : State) : Prop := stageOf s.cfg s.history = some (pollStage s.poll)

/-! ### The rows of the transition table (42 R160) -/

/-- What the row that matches an input leaves, one constructor for each row of 42 R160 that has a step. The XferReq of ISSUE is
the port's (43 R200), so it does not stand among the events here. -/
inductive PollRow (c : Params) (r : PollRegs) (busy : Bool) : PollInput → PollOut → Prop where
  | start (arg : Word) : r.pstate ≠ .checking → r.phase = .idle →
    PollRow c r busy (.start arg) ⟨⟨.checking, .issue, 0, some arg, none, .none, none, r.pdesc⟩, busy, [], none⟩
  | issue (arg : Word) : r.pstate = .checking → r.phase = .issue → r.arg = some arg →
    PollRow c r busy .issue
      ⟨⟨.checking, .waitRsp, r.attempts + 1, r.arg, r.lastResp, r.result, r.errcode, some (sendStatusImg c arg)⟩, busy, [], none⟩
  | rspErr (code : Word) : r.pstate = .checking → r.phase = .waitRsp →
    PollRow c r busy (.xferErr code)
      ⟨⟨.failed, .idle, r.attempts, r.arg, r.lastResp, .transport, some code, r.pdesc⟩, busy, [.done .transport (some code)],
        some (.transport, some code)⟩
  | rspReady (img : Image) : r.pstate = .checking → r.phase = .waitRsp → isReady (respOf c img).r0 = true →
    PollRow c r busy (.xferOk img)
      ⟨⟨.ready, .idle, r.attempts, r.arg, some (respOf c img).r0, .ok, r.errcode, some img⟩, false, [.done .ok none],
        some (.ok, none)⟩
  | rspBusy (img : Image) : r.pstate = .checking → r.phase = .waitRsp → isReady (respOf c img).r0 = false →
    r.attempts.toNat < Config.maxAttempts ∨ c.delayAfterLast = true →
    PollRow c r busy (.xferOk img)
      ⟨⟨.checking, .delay, r.attempts, r.arg, some (respOf c img).r0, r.result, r.errcode, some img⟩, busy,
        [.delayReq Config.pollDelayMs], none⟩
  | rspLast (img : Image) : r.pstate = .checking → r.phase = .waitRsp → isReady (respOf c img).r0 = false →
    r.attempts.toNat = Config.maxAttempts → c.delayAfterLast = false →
    PollRow c r busy (.xferOk img)
      ⟨⟨.exhausted, .idle, r.attempts, r.arg, some (respOf c img).r0, .timeout, r.errcode, some img⟩, busy,
        [.done .timeout none], some (.timeout, none)⟩
  | dlyNext : r.pstate = .checking → r.phase = .delay → r.attempts.toNat < Config.maxAttempts →
    PollRow c r busy .delayDone
      ⟨⟨.checking, .issue, r.attempts, r.arg, r.lastResp, r.result, r.errcode, r.pdesc⟩, busy, [], none⟩
  | dlyLast : r.pstate = .checking → r.phase = .delay → r.attempts.toNat = Config.maxAttempts →
    PollRow c r busy .delayDone
      ⟨⟨.exhausted, .idle, r.attempts, r.arg, r.lastResp, .timeout, r.errcode, r.pdesc⟩, busy, [.done .timeout none],
        some (.timeout, none)⟩

/-! ### The rows of the OPSEL map (30 R87) -/

/-- What a DST or SRC field may name. -/
inductive FieldKind where
  /-- The field must be 0. -/
  | zero
  | cd
  | cw
  /-- UNPACK's base, 0 to 16. -/
  | cwBase
  | reg
  deriving DecidableEq, Repr

def FieldKind.allows : FieldKind → Nat → Bool
  | .zero, n => decide (n = 0)
  | .cd, n => decide (n ≤ 15)
  | .cw, n => decide (n ≤ 31)
  | .cwBase, n => decide (n ≤ 16)
  | .reg, n => decide (n ≤ 7)

/-- A row of the OPSEL map: its DST, its SRC, and its length in words. -/
structure RequestRow where
  dst : FieldKind
  src : FieldKind
  length : Nat
  deriving DecidableEq, Repr

/-- The OPSEL map. -/
def requestRow (opsel : Nat) : Option RequestRow :=
  match opsel with
  | 0x00 => some ⟨.zero, .zero, 1⟩
  | 0x01 => some ⟨.cd, .zero, 4⟩
  | 0x02 => some ⟨.cd, .cd, 3⟩
  | 0x03 => some ⟨.cd, .cd, 5⟩
  | 0x04 => some ⟨.cd, .zero, 17⟩
  | 0x05 => some ⟨.cwBase, .cd, 1⟩
  | 0x10 => some ⟨.cw, .cw, 1⟩
  | 0x11 => some ⟨.cw, .cw, 1⟩
  | 0x12 => some ⟨.cw, .cw, 1⟩
  | 0x20 => some ⟨.cw, .zero, 2⟩
  | 0x21 => some ⟨.cw, .reg, 1⟩
  | 0x22 => some ⟨.cw, .cd, 1⟩
  | 0x23 => some ⟨.zero, .zero, 1⟩
  | 0x24 => some ⟨.cw, .zero, 2⟩
  | 0x25 => some ⟨.cw, .zero, 2⟩
  | 0x26 => some ⟨.zero, .cw, 2⟩
  | 0x27 => some ⟨.zero, .cw, 2⟩
  | 0x30 => some ⟨.cw, .zero, 1⟩
  | _ => none

/-- None of the conditions of 30 R89 holds of the frame at the head of the words, and it does not run past their end (30 R86). -/
def frameLegal (ws : List Word) : Bool :=
  match ws with
  | [] => false
  | h :: ops =>
    match requestRow (hdrOpsel h) with
    | none => false
    | some row =>
      decide (hdrHigh h = 0) && row.dst.allows (hdrDst h) && row.src.allows (hdrSrc h) && decide (row.length ≤ ws.length)
        && decide (hdrOpsel h = 0x21 ∧ hdrSrc h = 7 → hdrDst h ≤ 15)
        && decide (hdrOpsel h = 0x24 → ∀ off ∈ ops.head?, off.toNat % 4 = 0 ∧ off.toNat ≤ 508)

/-! ### The images of the CODEC (40 R103 (c)) -/

/-- An image the CODEC produces: by PACK or BUILD, or by WITH_TIMEOUT or WITH_DATA from such an image. -/
inductive CodecImage (c : Params) : Image → Prop where
  | pack (f : Fields) : CodecImage c (packImg c f)
  | build (op arg fl : Word) : CodecImage c (buildImg c op arg fl)
  | withTimeout (img : Image) (cms dns : Word) : CodecImage c img → CodecImage c (withTimeoutImg c img cms dns)
  | withData (img : Image) (addr : DWord) (cnt sz : Word) : CodecImage c img → CodecImage c (withDataImg c img addr cnt sz)

/-! ### The requests of the CODEC, and their operands (40 R108) -/

/-- A request of the CODEC (30 R87). -/
def isCodec : Instr → Bool
  | .build .. | .withTimeout .. | .withData .. | .pack .. | .unpack .. => true
  | .halt | .rfd .. | .cstate .. | .isReady .. | .ensureReady .. | .readStatus .. | .execute .. | .zeroBuf | .readBuf ..
  | .movi .. | .jz .. | .jnz .. | .fetchExtcsd .. | .sendStatusDesc .. | .sendExtCsdDesc .. | .mmcControlCall => false

/-- The descriptor variable a request of the CODEC reads, if it reads one. -/
def codecSource : Instr → Option (Fin 16)
  | .withTimeout _ src _ _ | .withData _ src _ _ _ | .unpack _ src => some src
  | .build .. | .pack .. | .halt | .rfd .. | .cstate .. | .isReady .. | .ensureReady .. | .readStatus .. | .execute ..
  | .zeroBuf | .readBuf .. | .movi .. | .jz .. | .jnz .. | .fetchExtcsd .. | .sendStatusDesc .. | .sendExtCsdDesc ..
  | .mmcControlCall => none

/-! ### What the transport's rows perform (30 R81 to R83; log 14) -/

/-- The image the instruction performs a call with, when the image `out` is outstanding; none for a request of F-REQ. -/
def performs (c : Params) (out : Image) : Instr → Option Image
  | .sendStatusDesc arg r => some (setResp c (sendStatusImg c arg) r)
  | .sendExtCsdDesc r p => some (setResp c (sendExtCsdImg c p) r)
  | .mmcControlCall => some out
  | .halt | .build .. | .withTimeout .. | .withData .. | .pack .. | .unpack .. | .rfd .. | .cstate .. | .isReady ..
  | .ensureReady .. | .readStatus .. | .execute .. | .zeroBuf | .readBuf .. | .movi .. | .jz .. | .jnz ..
  | .fetchExtcsd .. => none

/-- The host memory after an answer with a data phase (43 R205, R206): the drawn bytes in the transfer range, every other byte as
it was. -/
def Transferred (c : Params) (img : Image) (a : Answer) (before after : List Host.Cell) : Prop :=
  ∀ x, memByte after x =
    if blocksOf c img ≠ 0 ∧ (ptrOf c img).toNat ≤ x ∧ x < (ptrOf c img).toNat + transferLen c img then
      some (a.data (x - (ptrOf c img).toNat))
    else memByte before x

/-- The host memory after the zero-fill of the buffer (44 R227): 0 in the buffer, every other byte as it was. -/
def ZeroFilled (c : Params) (before after : List Host.Cell) : Prop :=
  ∀ x, memByte after x =
    if c.bufAddr.toNat ≤ x ∧ x < c.bufAddr.toNat + Config.extcsdBytes then some 0 else memByte before x

/-! ### Frames of a fault -/

/-- `t` is `s` with the fault recorded and nothing else changed, but for the model's own counter of draws (60 R243, R254). -/
def FaultedFrom (s t : State) (f : Fault) : Prop := t = raise f { s with draws := t.draws }

end Sys2Proof.Machine
end

