-- ==== Sys2Proof/Certificates/Slice0/Obligations.lean ====
section
/-! DEFINITION. The statements for the provers. Each formalises the rules of spec/ its docstring names, over every configuration:
State carries the parameters of 00 R8. A statement about a free value (the answer of the transport, `drawAnswer`) holds for every
value of it. -/

section

open Sys2Proof Sys2Proof.Machine

/-! ### Encodings (30) -/

/-- Decoding an encoded legal instruction gives it back, with every operand at every value, and the words after a request are left
as they are (30 R81, R83, R86 to R88). -/
def Obligations.EveryInstructionRoundTrips : Prop :=
  (∀ (c : Params) (i : Instr), i.wellFormed = true → decode c (encode c i) = .ok i) ∧
    ∀ (i : Instr) (rest : List Word), i.wellFormed = true → isRequest i = true →
      decodeFrame (frameWords i ++ rest) = .ok (i, rest)

/-- What decodes is legal and encodes back: a frame to its own words, whose number OPSEL alone tells (30 R87), and an image that
decodes to a preset to itself (30 R81). -/
def Obligations.DecodedCodesEncodeBack : Prop :=
  (∀ (ws : List Word) (i : Instr) (rest : List Word), decodeFrame ws = .ok (i, rest) →
    i.wellFormed = true ∧ isRequest i = true ∧ ws = frameWords i ++ rest ∧ (frameWords i).length = frameLength i ∧
      ∃ h, ws.head? = some h ∧ opselLength (hdrOpsel h) = some (frameLength i)) ∧
    ∀ (c : Params) (img : Image), decodeImage c img ≠ .mmcControlCall → encode c (decodeImage c img) = .image img

/-- 30 R89: a frame is a request exactly when none of the conditions of R89 holds and it does not run past the end of the
program (R86); otherwise the client's step raises IllegalRequest (R251), before any effect, with CPC and the header word recorded
(R244). That no header word is recorded where CPC is past the end is log 16's choice. -/
def Obligations.IllegalFramesRaiseIllegalRequest : Prop :=
  (∀ ws : List Word, (∃ p, decodeFrame ws = .ok p) ↔ frameLegal ws = true) ∧
    ∀ s : State, s.fault = none → enabled s = [.client] → s.client = .ready →
      frameLegal (s.program.drop s.cpc) = false →
      step s = .next (raise (.illegalRequest s.cpc s.program[s.cpc]?) s)

/-- Words written out from 30 R86, R87, R88 and R83 decode to the instructions they stand for. -/
def Obligations.WrittenWordsDecode : Prop :=
  decodeFrame [0x00000000#32] = .ok (.halt, []) ∧
    decodeFrame [0x00000101#32, 8, 0, 0x35] = .ok (.build 1 8 0 0x35, []) ∧
    decodeFrame [0x00000304#32, 1, 2, 3, 4, 5, 6, 7, 8, 9, 10, 11, 12, 13, 14, 15, 16] =
      .ok (.pack 3 ⟨1, 2, 3, ⟨4, 5, 6, 7⟩, 8, 9, 10, 11, 12, 13, 14, 0x000000100000000F⟩, []) ∧
    decodeFrame [0x00010103#32, 0x00001000, 0x00007F00, 1, 0x200] = .ok (.withData 1 1 0x00007F0000001000 1 512, []) ∧
    decodeFrame [0x001E1F12#32] = .ok (.isReady 31 30, []) ∧
    decodeFrame [0x00000020#32, 0x00010000] = .ok (.ensureReady 0 0x00010000, []) ∧
    decodeFrame [0x00140026#32, 0] = .ok (.jz 20 0, []) ∧
    decodeCall 0xB300#16 = .ok .mmcControlCall

/-! ### Bytes and images (00 R10, 20 R54, 40) -/

/-- 00 R10: get32 and get64 assemble their four and eight bytes in HOST_ENDIAN order, at every offset; set32 and set64 replace those bytes by the value's and leave
every other byte unchanged; zeros(72) is 72 zero bytes. -/
def Obligations.SetReplacesItsBytesOnly : Prop :=
  (∀ (img : Image) (o : Nat),
    get32 .little img o = imgByte img (o + 3) ++ imgByte img (o + 2) ++ imgByte img (o + 1) ++ imgByte img o ∧
      get32 .big img o = imgByte img o ++ imgByte img (o + 1) ++ imgByte img (o + 2) ++ imgByte img (o + 3) ∧
      get64 .little img o =
        imgByte img (o + 7) ++ imgByte img (o + 6) ++ imgByte img (o + 5) ++ imgByte img (o + 4) ++
          imgByte img (o + 3) ++ imgByte img (o + 2) ++ imgByte img (o + 1) ++ imgByte img o ∧
      get64 .big img o =
        imgByte img o ++ imgByte img (o + 1) ++ imgByte img (o + 2) ++ imgByte img (o + 3) ++
          imgByte img (o + 4) ++ imgByte img (o + 5) ++ imgByte img (o + 6) ++ imgByte img (o + 7)) ∧
    (∀ (e : Endian) (img : Image) (o : Nat) (v : Word), o + 4 ≤ 72 →
      get32 e (set32 e img o v) o = v ∧
        ∀ i, i < o ∨ o + 4 ≤ i → imgByte (set32 e img o v) i = imgByte img i) ∧
    (∀ (e : Endian) (img : Image) (o : Nat) (v : DWord), o + 8 ≤ 72 →
      get64 e (set64 e img o v) o = v ∧
        ∀ i, i < o ∨ o + 8 ≤ i → imgByte (set64 e img o v) i = imgByte img i) ∧
    ∀ i, imgByte zeros72 i = 0

/-- 20 R54: response word i is the u32 at OFF_RESP + 4*i, and the pointer is the u64 at OFF_PTR, whose halves are the two u32 there
in the order HOST_ENDIAN gives. -/
def Obligations.MixedWidthViewsAgree : Prop :=
  ∀ (c : Params) (img : Image),
    respOf c img =
        ⟨get32 c.endian img (fieldOff c.layout .resp0 + 4 * 0), get32 c.endian img (fieldOff c.layout .resp0 + 4 * 1),
          get32 c.endian img (fieldOff c.layout .resp0 + 4 * 2), get32 c.endian img (fieldOff c.layout .resp0 + 4 * 3)⟩ ∧
      ptrOf c img = get64 c.endian img offPtr ∧
      get64 .little img offPtr = get32 .little img (offPtr + 4) ++ get32 .little img offPtr ∧
      get64 .big img offPtr = get32 .big img offPtr ++ get32 .big img (offPtr + 4)

/-- 40 R103. -/
def Obligations.PackAndUnpackLaws : Prop :=
  ∀ c : Params,
    (∀ f : Fields, unpackImg c (packImg c f) = f) ∧
      (∀ img : Image, packImg c (unpackImg c img) = img ↔ reservedZero c.layout img = true) ∧
      (∀ img : Image, CodecImage c img → reservedZero c.layout img = true) ∧
      ∀ f g : Fields, f = g ↔ packImg c f = packImg c g

/-- 40 R107: WITH_TIMEOUT and WITH_DATA commute; of two calls the last wins; neither changes OPCODE, ARGUMENT, FLAGS, WRITE_FLAG,
RESPONSE, the post-sleep fields or a reserved byte; UNPACK of the result has just the named fields replaced. -/
def Obligations.ChainingLaws : Prop :=
  ∀ (c : Params) (img : Image) (a a' : DWord) (n n' z z' cms cms' dns dns' : Word),
    withTimeoutImg c (withDataImg c img a n z) cms dns = withDataImg c (withTimeoutImg c img cms dns) a n z ∧
      withTimeoutImg c (withTimeoutImg c img cms dns) cms' dns' = withTimeoutImg c img cms' dns' ∧
      withDataImg c (withDataImg c img a n z) a' n' z' = withDataImg c img a' n' z' ∧
      (∀ f ∈ [WordField.opcode, .argument, .flags, .writeFlag, .resp0, .resp1, .resp2, .resp3, .postsleepMin, .postsleepMax],
        getField c (withTimeoutImg c img cms dns) f = getField c img f ∧
          getField c (withDataImg c img a n z) f = getField c img f) ∧
      (∀ o, isReservedByte c.layout o = true →
        imgByte (withTimeoutImg c img cms dns) o = imgByte img o ∧ imgByte (withDataImg c img a n z) o = imgByte img o) ∧
      unpackImg c (withTimeoutImg c img cms dns) = { unpackImg c img with cmdTimeout := cms, dataTimeout := dns } ∧
      unpackImg c (withDataImg c img a n z) = { unpackImg c img with blockCount := n, blockSize := z, dataPointer := a }

/-- 30 R71 to R73: the offset of every field, and the reserved bytes RSV0 and PAD, as numbers in both layouts, with the fields
of an image read there; 40 R100: both layouts pass the layout check, and the corner case without RSV0 and with a 4-byte PAD
fails it. -/
def Obligations.LayoutCheckDecides : Prop :=
  (fieldOff .abi .writeFlag = 0 ∧ fieldOff .abi .opcode = 8 ∧ fieldOff .abi .argument = 12 ∧
      fieldOff .abi .resp0 = 16 ∧ fieldOff .abi .resp1 = 20 ∧ fieldOff .abi .resp2 = 24 ∧ fieldOff .abi .resp3 = 28 ∧
      fieldOff .abi .flags = 32 ∧ fieldOff .abi .blockSize = 36 ∧ fieldOff .abi .blockCount = 40 ∧
      fieldOff .abi .postsleepMin = 44 ∧ fieldOff .abi .postsleepMax = 48 ∧ fieldOff .abi .dataTimeout = 52 ∧
      fieldOff .abi .cmdTimeout = 56 ∧ ∀ o, isReservedByte .abi o = true ↔ (4 ≤ o ∧ o < 8) ∨ (60 ≤ o ∧ o < 64)) ∧
    (fieldOff .literal .writeFlag = 0 ∧ fieldOff .literal .opcode = 4 ∧ fieldOff .literal .argument = 8 ∧
      fieldOff .literal .resp0 = 12 ∧ fieldOff .literal .resp1 = 16 ∧ fieldOff .literal .resp2 = 20 ∧
      fieldOff .literal .resp3 = 24 ∧ fieldOff .literal .flags = 28 ∧ fieldOff .literal .blockSize = 32 ∧
      fieldOff .literal .blockCount = 36 ∧ fieldOff .literal .postsleepMin = 40 ∧ fieldOff .literal .postsleepMax = 44 ∧
      fieldOff .literal .dataTimeout = 48 ∧ fieldOff .literal .cmdTimeout = 52 ∧
      ∀ o, isReservedByte .literal o = true ↔ 56 ≤ o ∧ o < 64) ∧
    offPtr = 64 ∧
    (∀ (c : Params) (img : Image), unpackImg c img =
      let u := fun f => get32 c.endian img (fieldOff c.layout f)
      ⟨u .writeFlag, u .opcode, u .argument, ⟨u .resp0, u .resp1, u .resp2, u .resp3⟩, u .flags, u .blockSize,
        u .blockCount, u .postsleepMin, u .postsleepMax, u .dataTimeout, u .cmdTimeout, get64 c.endian img 64⟩) ∧
  (∀ l : Layout, layoutCheck (layoutTable l) offPtr = true) ∧
    layoutCheck (wordFields.map (fun f => ⟨fieldOff .literal f, 4, false⟩) ++ [⟨56, 4, true⟩, ⟨60, 8, false⟩]) 60 = false

/-- 40 R110, R111: the presets are their builds, and every other field of them is 0, reserved bytes included. -/
def Obligations.PresetsHaveTheirFields : Prop :=
  ∀ (c : Params) (arg : Word) (addr : DWord),
    sendStatusImg c arg = buildImg c 13 arg 0x15 ∧
      unpackImg c (sendStatusImg c arg) = ⟨0, 13, arg, ⟨0, 0, 0, 0⟩, 0x15, 0, 0, 0, 0, 0, 0, 0⟩ ∧
      reservedZero c.layout (sendStatusImg c arg) = true ∧
      sendExtCsdImg c addr = withDataImg c (buildImg c 8 0 0x35) addr 1 512 ∧
      unpackImg c (sendExtCsdImg c addr) = ⟨0, 8, 0, ⟨0, 0, 0, 0⟩, 0x35, 512, 1, 0, 0, 0, 0, addr⟩ ∧
      reservedZero c.layout (sendExtCsdImg c addr) = true

/-! ### The requests of the CODEC (40) -/

/-- 40 R104: CD[DST] is the image with the three fields given and every other field and reserved byte 0; CPC advances by 4; the
request and its reply are the only events; nothing else changes. -/
def Obligations.BuildCompletes : Prop :=
  ∀ (s : State) (dst : Fin 16) (op arg fl : Word), ∃ img : Image,
    exec (.build dst op arg fl) s =
        .next { s with
          cd := s.cd.set dst (some img)
          cpc := s.cpc + 4
          history := s.history ++ [.req (.build dst op arg fl), .reply (.image img)] } ∧
      unpackImg s.cfg img = ⟨0, op, arg, ⟨0, 0, 0, 0⟩, fl, 0, 0, 0, 0, 0, 0, 0⟩ ∧ reservedZero s.cfg.layout img = true

/-- 40 R101: CD[DST] is the image that unpacks to the record, its reserved bytes 0; nothing else changes but CPC and the
history. The record's words stand in the request's frame after its header, in the order of 30 R88. -/
def Obligations.PackCompletes : Prop :=
  (∀ (dst : Fin 16) (f : Fields), (frameWords (.pack dst f)).tail =
    [f.writeFlag, f.opcode, f.argument, f.response.r0, f.response.r1, f.response.r2, f.response.r3, f.flags, f.blockSize,
      f.blockCount, f.postsleepMin, f.postsleepMax, f.dataTimeout, f.cmdTimeout, f.dataPointer.extractLsb' 0 32,
      f.dataPointer.extractLsb' 32 32]) ∧
  ∀ (s : State) (dst : Fin 16) (f : Fields), ∃ img : Image,
    exec (.pack dst f) s =
        .next { s with
          cd := s.cd.set dst (some img)
          cpc := s.cpc + 17
          history := s.history ++ [.req (.pack dst f), .reply (.image img)] } ∧
      unpackImg s.cfg img = f ∧ reservedZero s.cfg.layout img = true

/-- 40 R105, R106: CD[DST] is CD[SRC] with just the named fields replaced, every other byte of it (reserved bytes included) as it
was; DST may equal SRC; nothing else changes but CPC and the history. A source that holds no value raises UnwrittenRead. -/
def Obligations.WithTimeoutAndWithDataComplete : Prop :=
  (∀ (s : State) (dst src : Fin 16) (addr : DWord) (x y : Word), s.cd[src] = none →
    exec (.withTimeout dst src x y) s = .next (raise (.unwrittenRead (.cd src)) s) ∧
      exec (.withData dst src addr x y) s = .next (raise (.unwrittenRead (.cd src)) s)) ∧
  ∀ (s : State) (dst src : Fin 16) (img : Image), s.cd[src] = some img →
    (∀ cms dns : Word, ∃ img' : Image,
      exec (.withTimeout dst src cms dns) s =
          .next { s with
            cd := s.cd.set dst (some img')
            cpc := s.cpc + 3
            history := s.history ++ [.req (.withTimeout dst src cms dns), .reply (.image img')] } ∧
        unpackImg s.cfg img' = { unpackImg s.cfg img with cmdTimeout := cms, dataTimeout := dns } ∧
        ∀ o, isReservedByte s.cfg.layout o = true → imgByte img' o = imgByte img o) ∧
      ∀ (addr : DWord) (cnt sz : Word), ∃ img' : Image,
        exec (.withData dst src addr cnt sz) s =
            .next { s with
              cd := s.cd.set dst (some img')
              cpc := s.cpc + 5
              history := s.history ++ [.req (.withData dst src addr cnt sz), .reply (.image img')] } ∧
          unpackImg s.cfg img' = { unpackImg s.cfg img with blockCount := cnt, blockSize := sz, dataPointer := addr } ∧
          ∀ o, isReservedByte s.cfg.layout o = true → imgByte img' o = imgByte img o

/-- 40 R102: CW[DST+k] is word k of the record, for the sixteen k, in the order of 30 R88, which the statement lists by field; every
other CW and everything else but CPC
and the history is unchanged. A source that holds no value raises UnwrittenRead. -/
def Obligations.UnpackCompletes : Prop :=
  (∀ (s : State) (dst : Fin 32) (src : Fin 16), dst.val ≤ 16 → s.cd[src] = none →
    exec (.unpack dst src) s = .next (raise (.unwrittenRead (.cd src)) s)) ∧
  (∀ f : Fields, fieldWords f =
    [f.writeFlag, f.opcode, f.argument, f.response.r0, f.response.r1, f.response.r2, f.response.r3, f.flags, f.blockSize,
      f.blockCount, f.postsleepMin, f.postsleepMax, f.dataTimeout, f.cmdTimeout, f.dataPointer.extractLsb' 0 32,
      f.dataPointer.extractLsb' 32 32]) ∧
  ∀ (s : State) (dst : Fin 32) (src : Fin 16) (img : Image), dst.val ≤ 16 → s.cd[src] = some img →
    ∃ cw : Vector (Option Word) 32,
      exec (.unpack dst src) s =
          .next { s with
            cw := cw
            cpc := s.cpc + 1
            history := s.history ++
              [.req (.unpack dst src), .reply (.words (fieldWords (unpackImg s.cfg img)))] } ∧
        (∀ k, k < 16 → cw[dst.val + k]? = (fieldWords (unpackImg s.cfg img))[k]?.map some) ∧
        ∀ j : Fin 32, j.val < dst.val ∨ dst.val + 16 ≤ j.val → cw[j] = s.cw[j]

/-- 40 R108: a request of the CODEC leaves POLL, the port, host memory and the client's place as they are; its only events are the
request and its reply; its only faults are a frame fault and the read of an unwritten source; and what it writes into CD and CW is
the same in any two states that agree on its source variable, whatever the rest of them holds. -/
def Obligations.CodecRequestsArePure : Prop :=
  ∀ (i : Instr) (s s' t t' : State), isCodec i = true → s.cfg = s'.cfg →
    (∀ src ∈ codecSource i, s.cd[src] = s'.cd[src]) → exec i s = .next t → exec i s' = .next t' →
    (t.poll = s.poll ∧ t.port = s.port ∧ t.mem = s.mem ∧ t.client = s.client ∧ t.cresult = s.cresult ∧ t.cerr = s.cerr) ∧
      (t = raise (.illegalRequest s.cpc (frameWords i).head?) s ∨
        (∃ src ∈ codecSource i, t = raise (.unwrittenRead (.cd src)) s) ∨
        (t.fault = s.fault ∧ ∃ v, t.history = s.history ++ [.req i, .reply v] ∧ t'.history = s'.history ++ [.req i, .reply v])) ∧
      (∀ j : Fin 16, t.cd[j] = t'.cd[j] ∨ (t.cd[j] = s.cd[j] ∧ t'.cd[j] = s'.cd[j])) ∧
      ∀ j : Fin 32, t.cw[j] = t'.cw[j] ∨ (t.cw[j] = s.cw[j] ∧ t'.cw[j] = s'.cw[j])

/-! ### The DECODER (41) -/

/-- 41 R140 to R142: CW[DST] is bit 8, bits 12:9, or the readiness predicate of CW[SRC]; nothing else changes but CPC and the
history. A source that holds no value raises UnwrittenRead. -/
def Obligations.DecoderRequestsComplete : Prop :=
  (∀ (s : State) (dst src : Fin 32), s.cw[src] = none → ∀ i ∈ [Instr.rfd dst src, .cstate dst src, .isReady dst src],
    exec i s = .next (raise (.unwrittenRead (.cw src)) s)) ∧
  ∀ (s : State) (dst src : Fin 32) (w : Word), s.cw[src] = some w →
    exec (.rfd dst src) s =
        .next { s with
          cw := s.cw.set dst (some ((w >>> 8) &&& 1))
          cpc := s.cpc + 1
          history := s.history ++ [.req (.rfd dst src), .reply (.word ((w >>> 8) &&& 1))] } ∧
      exec (.cstate dst src) s =
        .next { s with
          cw := s.cw.set dst (some ((w >>> 9) &&& 0xF))
          cpc := s.cpc + 1
          history := s.history ++ [.req (.cstate dst src), .reply (.word ((w >>> 9) &&& 0xF))] } ∧
      ∃ r : Word, (r = if (w >>> 8) &&& 1 = 1 ∧ (w >>> 9) &&& 0xF ≠ 7 then 1 else 0) ∧
        exec (.isReady dst src) s =
          .next { s with
            cw := s.cw.set dst (some r)
            cpc := s.cpc + 1
            history := s.history ++ [.req (.isReady dst src), .reply (.word r)] }

/-- 41 R144: two words that agree in bits 12:8 give equal results for all three. -/
def Obligations.DecoderIgnoresOtherBits : Prop :=
  ∀ w v : Word, w.extractLsb' 8 5 = v.extractLsb' 8 5 → rfd w = rfd v ∧ cstate w = cstate v ∧ isReady w = isReady v

/-- 41 R145: the range of CSTATE, readiness implies bit 8, and 15 of the 32 values of bits 12:8 are ready. -/
def Obligations.DecoderRange : Prop :=
  (∀ w : Word, (cstate w).toNat ≤ 15 ∧ (isReady w = true → rfd w = true)) ∧
    ((List.range 32).countP (fun b => isReady (BitVec.ofNat 32 (b * 256)))) = 15

/-! ### POLL (42) -/

/-- 42 R160, R180: outside the states no run reaches (10 R24, 10 R26), the function form answers exactly as the rows of the
transition table, and raises a fault exactly where START_BUSY does. -/
def Obligations.PollStepIsTheTable : Prop :=
  ∀ (c : Params) (cpc : Nat) (r : PollRegs) (busy : Bool) (i : PollInput),
    (r.pstate = .checking ↔ r.phase ≠ .idle) → (r.pstate = .checking → r.arg.isSome = true) →
    (∀ out, pollStep c cpc r busy i = .ok (some out) ↔ PollRow c r busy i out) ∧
      ∀ f, pollStep c cpc r busy i = .error f ↔
        ∃ arg, i = .start arg ∧ r.pstate = .checking ∧ f = .startWhileBusy cpc

/-- 42 R161, R162: ENSURE_READY is START, after which the client waits; while PSTATE = CHECKING it raises StartWhileBusy and changes
no register; and the step that ends the invocation ends the wait, writes the result code to CW[DST] and completes the request. That
CPC stays during the wait and moves past the request at the completing step is log 12's reading of 44 R220, R221. -/
def Obligations.EnsureReadyStartsAndEnds : Prop :=
  (∀ (s : State) (dst : Fin 32) (arg : Word),
    exec (.ensureReady dst arg) s =
      .next (if s.poll.pstate = .checking then raise (.startWhileBusy s.cpc) s
        else { s with
          poll := ⟨.checking, .issue, 0, some arg, none, .none, none, s.poll.pdesc⟩
          client := .awaitDone dst
          history := s.history ++ [.req (.ensureReady dst arg)] })) ∧
    ∀ (s t : State) (dst : Fin 32), s.client = .awaitDone dst → step s = .next t →
      (s.poll.pstate = .checking ∧ t.poll.pstate ≠ .checking) ∨ t.client ≠ .awaitDone dst →
      t.client = .ready ∧ t.cpc = s.cpc + 2 ∧ t.cw = s.cw.set dst (some (resultCode t.poll.result)) ∧
        (t.poll.pstate = .ready ∧ resultCode t.poll.result = 1 ∨ t.poll.pstate = .exhausted ∧ resultCode t.poll.result = 2 ∨
          t.poll.pstate = .failed ∧ resultCode t.poll.result = 3)

/-- 42 R163, R174: a step enters CHECKING only by START; a step that does not start POLL leaves every register of a POLL that is not
in CHECKING as it was, so UNKNOWN is never re-entered; and POLL then has no step of its own. -/
def Obligations.OnlyStartLeavesTerminalStates : Prop :=
  ∀ s t : State, s.poll.pstate ≠ .checking → step s = .next t →
    pollEnabled s = false ∧
      (t.poll.pstate = .checking →
        ∃ dst arg, t.history = s.history ++ [.req (.ensureReady dst arg)] ∧
          t.poll = ⟨.checking, .issue, 0, some arg, none, .none, none, s.poll.pdesc⟩) ∧
      (t.poll.pstate ≠ .checking → t.poll = s.poll)

/-- 42 R163: no step enters UNKNOWN. -/
def Obligations.UnknownIsNeverReentered : Prop :=
  ∀ s t : State, step s = .next t → t.poll.pstate = .unknown → s.poll.pstate = .unknown

/-- 42 R166: ISSUE builds a fresh status command from ARG, counts the attempt and submits the command; the port admits it, or
raises ConcurrentCommand. R200 makes POLL the owner of the call; that TraceIssue (R209) stands after the XferReq is log 13. -/
def Obligations.IssueSubmitsAStatusCommand : Prop :=
  ∀ (s : State) (arg : Word), s.poll.pstate = .checking → s.poll.phase = .issue → s.poll.arg = some arg →
    (s.port.call = none →
      issueStep s =
        { s with
          poll := { s.poll with
            pdesc := some (sendStatusImg s.cfg arg)
            attempts := s.poll.attempts + 1
            phase := .waitRsp }
          port := { s.port with call := some ⟨.poll, sendStatusImg s.cfg arg⟩ }
          history := s.history ++ .xferReq .poll (sendStatusImg s.cfg arg) ::
            (if 1 ≤ s.cfg.diagLevel then [.traceIssue 13 arg 0x15] else []) }) ∧
      (s.port.call ≠ none →
        issueStep s = raise (.concurrentCommand .poll (sendStatusImg s.cfg arg)) s)

/-- 42 R167 to R170: what an answer to POLL's status command leaves in POLL's registers and BUSY_HAZARD, and the events of the step,
for a transport failure, a ready word, a word that is not ready with budget or a last delay left, and the last one. The answer of a
step is the one drawn; the clauses hold for every answer. The rows that answer are SEND_STATUS_DESC, to which POLL's image decodes,
and every other that performs the image; that exec of such a row performs the answer is log 14, and that TraceResult stands between
the answer and POLL's own event is log 13. -/
def Obligations.StatusAnswerMovesPoll : Prop :=
  ∀ (s : State) (img : Image), s.port.call = some ⟨.poll, img⟩ → opcodeOf s.cfg img = 13 →
    blocksOf s.cfg img = 0 → s.poll.pstate = .checking → s.poll.phase = .waitRsp →
    s.poll.attempts.toNat ≤ Config.maxAttempts →
    (∀ i : Instr, performs s.cfg img i = some img →
      exec i s = .next (answerCall .poll img (drawAnswer s.cfg s.draws) { s with draws := s.draws + 1 })) ∧
    ∀ (a : Answer) (t : State), t = answerCall .poll img a s →
      t.port.call = none ∧ t.mem = s.mem ∧ t.cd = s.cd ∧ t.fault = s.fault ∧
      (∀ code, a.err = some code →
        t.poll = { s.poll with pstate := .failed, phase := .idle, result := .transport, errcode := some code } ∧
          t.port.busyHazard = s.port.busyHazard ∧
          t.history = s.history ++ .xferErr code :: traceResult s.cfg a ++ [.done .transport (some code)]) ∧
      (a.err = none → isReady a.resp.r0 = true →
        t.poll = { s.poll with
            pstate := .ready, phase := .idle, lastResp := some a.resp.r0, result := .ok,
            pdesc := some (setResp s.cfg img a.resp) } ∧
          t.port.busyHazard = false ∧
          t.history = s.history ++ .xferOk (setResp s.cfg img a.resp) :: traceResult s.cfg a ++ [.done .ok none]) ∧
      (a.err = none → isReady a.resp.r0 = false →
        (s.poll.attempts.toNat < Config.maxAttempts ∨ s.cfg.delayAfterLast = true) →
        t.poll = { s.poll with
            phase := .delay, lastResp := some a.resp.r0, pdesc := some (setResp s.cfg img a.resp) } ∧
          t.port.busyHazard = s.port.busyHazard ∧
          t.history = s.history ++ .xferOk (setResp s.cfg img a.resp) :: traceResult s.cfg a ++ [.delayReq 20] ∧
          t.client = s.client ∧ t.cw = s.cw ∧ t.cpc = s.cpc) ∧
      (a.err = none → isReady a.resp.r0 = false → s.poll.attempts.toNat = Config.maxAttempts →
        s.cfg.delayAfterLast = false →
        t.poll = { s.poll with
            pstate := .exhausted, phase := .idle, lastResp := some a.resp.r0, result := .timeout,
            pdesc := some (setResp s.cfg img a.resp) } ∧
          t.port.busyHazard = s.port.busyHazard ∧
          t.history = s.history ++ .xferOk (setResp s.cfg img a.resp) :: traceResult s.cfg a ++ [.done .timeout none])

/-- 42 R171, R172: DelayDone goes back to ISSUE while budget is left, and ends the invocation with TIMEOUT at MAX_ATTEMPTS; no other
register of POLL, and neither the port nor host memory nor CD, changes. -/
def Obligations.DelayDoneMovesPoll : Prop :=
  ∀ s : State, s.poll.pstate = .checking → s.poll.phase = .delay →
    (s.poll.attempts.toNat < 50 →
      timerStep s = { s with poll := { s.poll with phase := .issue }, history := s.history ++ [.delayDone] }) ∧
      (s.poll.attempts.toNat = 50 →
        (timerStep s).poll = { s.poll with pstate := .exhausted, phase := .idle, result := .timeout } ∧
          (timerStep s).history = s.history ++ [.delayDone, .done .timeout none] ∧
          (timerStep s).port = s.port ∧ (timerStep s).mem = s.mem ∧ (timerStep s).cd = s.cd)

/-- 42 R173: the step that ends an invocation, by entering READY, EXHAUSTED or FAILED from CHECKING, emits exactly one Done, and no
other step emits one; its result is RESULT after the transition, and its code is ERRCODE for TRANSPORT and no value otherwise. -/
def Obligations.DoneCarriesTheResult : Prop :=
  ∀ s t : State, step s = .next t → ∃ es : List Event, t.history = s.history ++ es ∧
    es.countP isDone = (if s.poll.pstate = .checking ∧ t.poll.pstate ≠ .checking then 1 else 0) ∧
    ∀ r code, .done r code ∈ es →
      (r = .ok ∧ t.poll.pstate = .ready ∨ r = .timeout ∧ t.poll.pstate = .exhausted ∨
        r = .transport ∧ t.poll.pstate = .failed) ∧
        r = t.poll.result ∧ code = (if r = .transport then t.poll.errcode else none)

/-- 42 R178: from every consistent state in CHECKING that holds no fault and no refusal, within 3 * MAX_ATTEMPTS steps POLL ends its
invocation in READY, EXHAUSTED or FAILED. Each step of an agent that has one stands for the fairness of 00 R19 (log 10). -/
def Obligations.EnsureReadyTerminates : Prop :=
  ∀ s : State, Consistent s → s.poll.pstate = .checking → s.fault = none → s.refused = none →
    ∃ n t, n ≤ 3 * Config.maxAttempts ∧ core.run n s = .next t ∧
      (t.poll.pstate = .ready ∨ t.poll.pstate = .exhausted ∨ t.poll.pstate = .failed) ∧ t.fault = none

/-- 42 R175, R176: the counts of an invocation's attempts, delays and Dones hold after reset, and every step keeps them. -/
def Obligations.InvocationCountsKept : Prop :=
  (∀ c : Params, InvocationCounts (resetWith c)) ∧
    ∀ s t : State, Consistent s → InvocationCounts s → step s = .next t → InvocationCounts t

/-- 42 R177: the history of a run keeps to the order of events inside an invocation, and says where POLL is. -/
def Obligations.EventOrderKept : Prop :=
  (∀ c : Params, EventsInOrder (resetWith c)) ∧
    ∀ s t : State, Consistent s → EventsInOrder s → step s = .next t → EventsInOrder t

/-- 42 R181: READ_STATUS reads the numbered register into CW[DST], PSTATE, PHASE and RESULT as the numbers of 10 R23, R24 and R28, or
PDESC into CD[DST], and changes nothing else but CPC and the history. A register that holds no value raises UnwrittenRead. -/
def Obligations.ReadStatusCompletes : Prop :=
  ∀ (s : State) (dst : Fin 32),
    (∀ (n : Fin 8) (v : Word),
      (n = 0 ∧ v = (match s.poll.pstate with
            | .unknown => 0 | .checking => 1 | .ready => 2 | .exhausted => 3 | .failed => 4) ∨
        n = 1 ∧ v = (match s.poll.phase with | .idle => 0 | .issue => 1 | .waitRsp => 2 | .delay => 3) ∨
        n = 2 ∧ v = s.poll.attempts ∨ n = 3 ∧ s.poll.arg = some v ∨ n = 4 ∧ s.poll.lastResp = some v ∨
        n = 5 ∧ v = (match s.poll.result with | .none => 0 | .ok => 1 | .timeout => 2 | .transport => 3) ∨
        n = 6 ∧ s.poll.errcode = some v) →
      exec (.readStatus dst n) s =
        .next { s with
          cw := s.cw.set dst (some v)
          cpc := s.cpc + 1
          history := s.history ++ [.req (.readStatus dst n), .reply (.word v)] }) ∧
      (∀ (d : Fin 16) (img : Image), dst.val = d.val → s.poll.pdesc = some img →
        exec (.readStatus dst 7) s =
          .next { s with
            cd := s.cd.set d (some img)
            cpc := s.cpc + 1
            history := s.history ++ [.req (.readStatus dst 7), .reply (.image img)] }) ∧
      ∀ n : Fin 8, n = 3 ∧ s.poll.arg = none ∨ n = 4 ∧ s.poll.lastResp = none ∨ n = 6 ∧ s.poll.errcode = none ∨
          n = 7 ∧ dst.val ≤ 15 ∧ s.poll.pdesc = none →
        exec (.readStatus dst n) s = .next (raise (.unwrittenRead (.reg n)) s)

/-! ### The transport port (43) -/

/-- 43 R200 to R203, 44 R226, 60 R264: EXECUTE submits CD[SRC], and the first check that fails decides; when all pass, the client
owns the outstanding call and waits, and nothing else changes but the history. A refused request is a transaction of 10 R36 and is
recorded (R38), with the mark of log 2; one that faults is not (60 R254). That CPC stays while the client waits is log 12's
reading of 44 R220, R221; that TraceIssue follows the XferReq is log 13. -/
def Obligations.ExecuteSubmitsOrStops : Prop :=
  ∀ (s : State) (dst : Fin 32) (src : Fin 16) (img : Image), s.cd[src] = some img →
    exec (.execute dst src) s =
      .next (
        if s.port.call ≠ none then raise (.concurrentCommand .client img) s
        else if writeFlagOf s.cfg img ≠ 0 then { s with
          refused := some (.writePathRefused .client)
          history := s.history ++ [.xferReq .client img] }
        else if blocksOf s.cfg img ≠ 0 ∧ (ptrOf s.cfg img).toNat % 8 ≠ 0 then
          raise (.misalignedDataBuffer (ptrOf s.cfg img)) s
        else if blocksOf s.cfg img ≠ 0 ∧
            ¬ (s.cfg.bufAddr.toNat ≤ (ptrOf s.cfg img).toNat ∧
              (ptrOf s.cfg img).toNat + (blocksOf s.cfg img).toNat * (blkszOf s.cfg img).toNat ≤ s.cfg.bufAddr.toNat + 512) then
          raise (.bufferOutOfRange (ptrOf s.cfg img).toNat (blocksOf s.cfg img).toNat (blkszOf s.cfg img).toNat) s
        else if opcodeOf s.cfg img ≠ 13 ∧ s.port.busyHazard = true then raise (.busyHazard (opcodeOf s.cfg img)) s
        else { s with
          port := { s.port with call := some ⟨.client, img⟩ }
          client := .awaitXfer dst src
          history := s.history ++ .xferReq .client img ::
            (if 1 ≤ s.cfg.diagLevel then
              [.traceIssue (opcodeOf s.cfg img) (argOf s.cfg img) (flagsOf s.cfg img)] else []) })

/-- 44 R226, 43 R205 to R208: the answer to the client's EXECUTE writes the returned image to CD[SRC] and the code (0 on success) to
CW[DST] and completes the request; the transfer range holds the drawn bytes; XOWNER is NONE; BUSY_HAZARD is set unless the opcode is
13; nothing else changes but the history and the draws. It holds of every row that performs the image: SEND_STATUS_DESC for a
CMD13 preset, SEND_EXT_CSD_DESC for a CMD8 preset, MMC_CONTROL_CALL for any. That exec of such a row performs the answer is log 14, that CPC
moves at the answer is log 12, and that TraceResult follows the answer is log 13. -/
def Obligations.AnswerCompletesExecute : Prop :=
  ∀ (s : State) (dst : Fin 32) (src : Fin 16) (img : Image) (a : Answer) (i : Instr), s.client = .awaitXfer dst src →
    s.port.call = some ⟨.client, img⟩ → performs s.cfg img i = some img → a = drawAnswer s.cfg s.draws →
    (blocksOf s.cfg img ≠ 0 → (ptrOf s.cfg img).toNat + transferLen s.cfg img ≤ 2 ^ 64) →
    ∃ m, Transferred s.cfg img a s.mem m ∧
      exec i s =
        .next { s with
          client := .ready
          cd := s.cd.set src (some (setResp s.cfg img a.resp))
          cw := s.cw.set dst (some (match a.err with | none => 0 | some code => code))
          cpc := s.cpc + 1
          port := ⟨none, if opcodeOf s.cfg img = 13 then s.port.busyHazard else true⟩
          mem := m
          history := s.history ++
            (match a.err with | none => .xferOk (setResp s.cfg img a.resp) | some code => .xferErr code) ::
              (if 2 ≤ s.cfg.diagLevel then [.traceResult a.err a.resp] else [])
          draws := s.draws + 1 }

/-- 43 R205, R206, R213 (the rows of the transport are log 14's reading): SEND_STATUS_DESC, SEND_EXT_CSD_DESC and MMC_CONTROL_CALL
perform the one outstanding call with their image. The answer's event comes first, the transfer range alone of host memory takes
the drawn bytes, the call is no longer outstanding, and configuration, program, fault and refusal stay. With XOWNER = NONE the
transport has no step. That the answer's event stands first in the step, before TraceResult, is log 13's choice. -/
def Obligations.TransportRowsAnswerTheCall : Prop :=
  (∀ (s : State) (call : Call) (i : Instr) (img : Image) (a : Answer), s.port.call = some call →
    performs s.cfg call.image i = some img → a = drawAnswer s.cfg s.draws →
    (blocksOf s.cfg img ≠ 0 → (ptrOf s.cfg img).toNat + transferLen s.cfg img ≤ 2 ^ 64) →
    ∃ t es, exec i s = .next t ∧ t.port.call = none ∧ Transferred s.cfg img a s.mem t.mem ∧
      t.history = s.history ++
        (match a.err with | none => .xferOk (setResp s.cfg img a.resp) | some code => .xferErr code) :: es ∧
      t.cfg = s.cfg ∧ t.program = s.program ∧ t.fault = s.fault ∧ t.refused = s.refused ∧
      (call.owner = .client → t.poll = s.poll ∧
        t.port.busyHazard = (if opcodeOf s.cfg img = 13 then s.port.busyHazard else true)) ∧
      (call.owner = .poll → t.cd = s.cd)) ∧
    ∀ (s : State) (i : Instr), isRequest i = false → s.port.call = none → exec i s = .refused .noCallOutstanding

/-- 43 R208: the answer to a request whose OPCODE is not 13 sets BUSY_HAZARD; no other step sets it; and only a status command of
POLL that was answered ready clears it. -/
def Obligations.BusyHazardRule : Prop :=
  ∀ s t : State, Consistent s → step s = .next t → t.fault = none →
    (∀ call, s.port.call = some call → t.port.call = none → opcodeOf s.cfg call.image ≠ 13 → t.port.busyHazard = true) ∧
      (s.port.busyHazard = false → t.port.busyHazard = true →
        ∃ call, s.port.call = some call ∧ opcodeOf s.cfg call.image ≠ 13) ∧
      (s.port.busyHazard = true → t.port.busyHazard = false →
        s.xowner = some .poll ∧ s.poll.pstate = .checking ∧ t.poll.pstate = .ready ∧ lastReady t.poll true = true)

/-- 70 R286: while BUSY_HAZARD = 1, no step makes a call outstanding but a status command; and no call that is made outstanding is a
write (30 R75, 60 R264). -/
def Obligations.OnlyStatusCommandsWhileBusy : Prop :=
  ∀ (s t : State) (call : Call), step s = .next t → s.port.call = none → t.port.call = some call →
    (s.port.busyHazard = true → opcodeOf s.cfg call.image = 13) ∧ writeFlagOf s.cfg call.image = 0

/-- 43 R207, R210: exactly one answer follows each admitted request: the admitted requests of a run are its answers and the one that
is outstanding. A request recorded without being admitted is a refused write (60 R264), which has no answer. -/
def Obligations.OneAnswerForEachCall : Prop :=
  (∀ c : Params, OneAnswerEach (resetWith c)) ∧ ∀ s t : State, OneAnswerEach s → step s = .next t → OneAnswerEach t

/-! ### The client (44) -/

/-- 44 R223 to R225: MOVI writes CW[DST]; JZ and JNZ set CPC to the target or past the request; nothing else changes. A test
variable that holds no value raises UnwrittenRead. -/
def Obligations.MoviAndJumpsComplete : Prop :=
  (∀ (s : State) (dst : Fin 32) (v : Word),
    exec (.movi dst v) s = .next { s with cw := s.cw.set dst (some v), cpc := s.cpc + 2 }) ∧
    (∀ (s : State) (src : Fin 32) (target : Word), s.cw[src] = none → ∀ i ∈ [Instr.jz src target, .jnz src target],
      exec i s = .next (raise (.unwrittenRead (.cw src)) s)) ∧
    ∀ (s : State) (src : Fin 32) (w target : Word), s.cw[src] = some w →
      exec (.jz src target) s = .next { s with cpc := if w = 0 then target.toNat else s.cpc + 2 } ∧
        exec (.jnz src target) s = .next { s with cpc := if w ≠ 0 then target.toNat else s.cpc + 2 }

/-- 44 R222, R236: HALT changes nothing but that the client has finished, CPC included; and a client that has finished has no
further step. -/
def Obligations.HaltFinishesTheClient : Prop :=
  (∀ s : State, exec .halt s = .next { s with client := .finished }) ∧
    (∀ s : State, s.client = .finished → clientEnabled s = false) ∧
    ∀ s t : State, s.client = .finished → step s = .next t → t.client = .finished ∧ t.cpc = s.cpc

/-- 44 R227: ZERO_BUF makes every byte of the buffer 0 and leaves every other byte; nothing else changes but CPC. -/
def Obligations.ZeroBufCompletes : Prop :=
  ∀ s : State, s.cfg.bufAddr.toNat + 512 ≤ 2 ^ 64 →
    ∃ m, ZeroFilled s.cfg s.mem m ∧ exec .zeroBuf s = .next { s with mem := m, cpc := s.cpc + 1 }

/-- 44 R228: READ_BUF assembles the four bytes at BUF_ADDR + offset in HOST_ENDIAN order into CW[DST]; nothing else changes but
CPC. -/
def Obligations.ReadBufCompletes : Prop :=
  ∀ (s : State) (dst : Fin 32) (off : Word) (b0 b1 b2 b3 : Byte), off.toNat % 4 = 0 → off.toNat ≤ 508 →
    s.cfg.bufAddr.toNat + off.toNat + 4 ≤ 2 ^ 64 →
    memByte s.mem (s.cfg.bufAddr.toNat + off.toNat) = some b0 →
    memByte s.mem (s.cfg.bufAddr.toNat + off.toNat + 1) = some b1 →
    memByte s.mem (s.cfg.bufAddr.toNat + off.toNat + 2) = some b2 →
    memByte s.mem (s.cfg.bufAddr.toNat + off.toNat + 3) = some b3 →
    exec (.readBuf dst off) s =
      .next { s with
        cw := s.cw.set dst (some (match s.cfg.endian with
          | .little => b3 ++ b2 ++ b1 ++ b0
          | .big => b0 ++ b1 ++ b2 ++ b3))
        cpc := s.cpc + 2 }

/-- 60 R246: a request that reads a POLL register, a CD or CW variable or a buffer byte that holds no value raises UnwrittenRead,
and changes nothing else. Which of READ_BUF's four bytes the fault names, the first from the lowest address up, is log 18's reading. -/
def Obligations.UnwrittenReadsFault : Prop :=
  ∀ s : State,
    (∀ (src dst : Fin 32) (target : Word), s.cw[src] = none →
      exec (.rfd dst src) s = .next (raise (.unwrittenRead (.cw src)) s) ∧
        exec (.cstate dst src) s = .next (raise (.unwrittenRead (.cw src)) s) ∧
        exec (.isReady dst src) s = .next (raise (.unwrittenRead (.cw src)) s) ∧
        exec (.jz src target) s = .next (raise (.unwrittenRead (.cw src)) s) ∧
        exec (.jnz src target) s = .next (raise (.unwrittenRead (.cw src)) s)) ∧
      (∀ (src dst : Fin 16) (d : Fin 32) (addr : DWord) (x y : Word), s.cd[src] = none →
        exec (.withTimeout dst src x y) s = .next (raise (.unwrittenRead (.cd src)) s) ∧
          exec (.withData dst src addr x y) s = .next (raise (.unwrittenRead (.cd src)) s) ∧
          exec (.execute d src) s = .next (raise (.unwrittenRead (.cd src)) s) ∧
          (d.val ≤ 16 → exec (.unpack d src) s = .next (raise (.unwrittenRead (.cd src)) s))) ∧
      (∀ (d : Fin 32) (n : Fin 8),
        (n = 3 ∧ s.poll.arg = none ∨ n = 4 ∧ s.poll.lastResp = none ∨ n = 6 ∧ s.poll.errcode = none ∨
          n = 7 ∧ d.val ≤ 15 ∧ s.poll.pdesc = none) →
        exec (.readStatus d n) s = .next (raise (.unwrittenRead (.reg n)) s)) ∧
      ∀ (d : Fin 32) (off : Word) (k : Nat), off.toNat % 4 = 0 → off.toNat ≤ 508 →
        s.cfg.bufAddr.toNat + off.toNat + 4 ≤ 2 ^ 64 → k < 4 →
        (∀ j, j < k → memByte s.mem (s.cfg.bufAddr.toNat + off.toNat + j) ≠ none) →
        memByte s.mem (s.cfg.bufAddr.toNat + off.toNat + k) = none →
        exec (.readBuf d off) s = .next (raise (.unwrittenRead (.byte (s.cfg.bufAddr.toNat + off.toNat + k))) s)

/-- 20 R51: addresses do not wrap: an access past 2^64-1 raises BufferOutOfRange, and changes nothing else. It is the zero-fill of
ZERO_BUF and FETCH_EXTCSD, the read of READ_BUF, and the transfer of an answer. Which information is recorded, and that a transfer
is checked at its answer, are log 17's choices; that exec of the transport's row is the answer is log 14's. -/
def Obligations.AccessesPastTheAddressSpaceFault : Prop :=
  ∀ s : State,
    (2 ^ 64 < s.cfg.bufAddr.toNat + 512 → ∃ f, faultCode f = 5 ∧
      exec .zeroBuf s = .next (raise f s) ∧ ∀ dst, exec (.fetchExtcsd dst) s = .next (raise f s)) ∧
      (∀ (dst : Fin 32) (off : Word), off.toNat % 4 = 0 → off.toNat ≤ 508 → 2 ^ 64 < s.cfg.bufAddr.toNat + off.toNat + 4 →
        ∃ f, faultCode f = 5 ∧ exec (.readBuf dst off) s = .next (raise f s)) ∧
      ∀ call i, s.port.call = some call → performs s.cfg call.image i = some call.image → blocksOf s.cfg call.image ≠ 0 →
        2 ^ 64 < (ptrOf s.cfg call.image).toNat + transferLen s.cfg call.image →
        ∃ f, faultCode f = 5 ∧ exec i s = .next (raise f { s with draws := s.draws + 1 })

/-- 44 R231 and the first lines of R230: FETCH_EXTCSD clears CERR and zeroes the buffer, with FSTEP = 1, before any command of the
sequence is issued; nothing else changes. That this is a step of its own is log 11's choice, and that CPC stays is log 12's reading
of 44 R220, R221. -/
def Obligations.FetchStartsByZeroing : Prop :=
  ∀ (s : State) (dst : Fin 32), s.cfg.bufAddr.toNat + 512 ≤ 2 ^ 64 →
    ∃ m, ZeroFilled s.cfg s.mem m ∧
      exec (.fetchExtcsd dst) s = .next { s with cerr := none, client := .fetching dst .one false, mem := m }

/-- 44 R230, R232 to R234 (the steps between the waits are log 11's reading): the two checks of a fetch are ENSURE_READY with
STATUS_ARG, and the read is the CMD8 preset for the buffer, which the port admits. That a check is recorded as an ENSURE_READY
request with the fetch's DST is log 24, and that TraceIssue stands after the XferReq (R200, R209) is log 13. -/
def Obligations.FetchChecksReadsAndChecks : Prop :=
  ∀ (s : State) (dst : Fin 32), Consistent s → s.cfg.inRange = true → s.fault = none → s.refused = none →
    (s.client = .fetching dst .one false →
      step s = .next { s with
        poll := ⟨.checking, .issue, 0, some s.cfg.statusArg, none, .none, none, s.poll.pdesc⟩
        client := .fetching dst .two true
        history := s.history ++ [.req (.ensureReady dst s.cfg.statusArg)] }) ∧
      (s.client = .fetching dst .two false →
        step s = .next { s with
          port := ⟨some ⟨.client, sendExtCsdImg s.cfg s.cfg.bufAddr⟩, false⟩
          client := .fetching dst .three true
          history := s.history ++ .xferReq .client (sendExtCsdImg s.cfg s.cfg.bufAddr) ::
            (if 1 ≤ s.cfg.diagLevel then [.traceIssue 8 0 0x35] else []) }) ∧
      (s.client = .fetching dst .three false →
        step s = .next { s with
          poll := ⟨.checking, .issue, 0, some s.cfg.statusArg, none, .none, none, s.poll.pdesc⟩
          client := .fetching dst .four true
          history := s.history ++ [.req (.ensureReady dst s.cfg.statusArg)] })

/-- 44 R237, R234: a fetch ends with the first result of its parts that is not OK, unchanged, or with OK after the second check; then
CW[DST] holds the result code, BUSY_HAZARD is 0 after OK (R238 (f)), and CERR the code of a TRANSPORT. It goes on only after its
first check and its read have returned success. The steps between the waits are log 11's choice; that CPC moves at the completing
step alone is log 12's reading of R220, R221; that the answer's event stands first in its step is log 13's choice. -/
def Obligations.FetchEndsWithItsFirstError : Prop :=
  ∀ (s t : State) (dst : Fin 32) (k : FStep) (w : Bool), Consistent s → s.client = .fetching dst k w → step s = .next t →
    (t.client = .ready →
      t.cw = s.cw.set dst (some (resultCode t.cresult)) ∧ t.cpc = s.cpc + 1 ∧
        (k = .four ∧ t.cresult = .ok ∧ t.poll.pstate = .ready ∧ t.port.busyHazard = false ∧ t.cerr = none ∨
          (k = .two ∨ k = .four) ∧ t.cresult = t.poll.result ∧ t.cerr = t.poll.errcode ∧
            (t.poll.pstate = .exhausted ∧ t.cresult = .timeout ∨ t.poll.pstate = .failed ∧ t.cresult = .transport) ∨
          k = .three ∧ t.cresult = .transport ∧
            ∃ code es, t.cerr = some code ∧ t.history = s.history ++ .xferErr code :: es)) ∧
      (t.client ≠ .ready →
        t.cw = s.cw ∧ t.cpc = s.cpc ∧ t.cresult = s.cresult ∧
          (t.client = s.client ∨
            k = .one ∧ t.client = .fetching dst .two true ∨
            k = .two ∧ w = true ∧ t.client = .fetching dst .two false ∧ t.poll.result = .ok ∨
            k = .two ∧ w = false ∧ t.client = .fetching dst .three true ∨
            k = .three ∧ w = true ∧ t.client = .fetching dst .three false ∧
              (∃ img es, t.history = s.history ++ .xferOk img :: es) ∨
            k = .three ∧ w = false ∧ t.client = .fetching dst .four true))

/-- 44 R230: a FETCH_EXTCSD that has zeroed the buffer completes, within the steps of two invocations of POLL, one CMD8 and the two
STARTs, with a result code in CW[DST]. Each step of an agent that has one stands for the fairness of 00 R19 (log 10); the steps
of the fetch are log 11's choice, and that CPC moves only at its completion is log 12's reading of R220, R221. -/
def Obligations.FetchTerminates : Prop :=
  ∀ (s : State) (dst : Fin 32), Consistent s → s.cfg.inRange = true → s.client = .fetching dst .one false → s.fault = none →
    s.refused = none → s.cfg.bufAddr.toNat + 512 ≤ 2 ^ 64 →
    ∃ n t, n ≤ 2 * (3 * Config.maxAttempts + 1) + 2 ∧ core.run n s = .next t ∧ t.client = .ready ∧ t.fault = none ∧
      t.cpc = s.cpc + 1 ∧ t.cw = s.cw.set dst (some (resultCode t.cresult)) ∧
      (t.cresult = .ok ∨ t.cresult = .timeout ∨ t.cresult = .transport)

/-! ### Faults, refusals and the whole machine (00, 10, 20, 60, 70) -/

/-- 70 R271, for every configuration; `State.reset` is the reset under one of them. -/
def Obligations.ResetValues : Prop :=
  (∀ (c : Params) (s : State), s = resetWith c →
    s.poll.pstate = .unknown ∧ s.poll.phase = .idle ∧ s.poll.attempts = 0 ∧ s.poll.arg = none ∧ s.poll.lastResp = none ∧
      s.poll.result = .none ∧ s.poll.errcode = none ∧ s.poll.pdesc = none ∧
      s.xowner = none ∧ s.port.busyHazard = true ∧
      (∀ i : Fin 16, s.cd[i] = none) ∧ (∀ i : Fin 32, s.cw[i] = none) ∧ s.cpc = 0 ∧ s.cresult = .none ∧ s.cerr = none ∧
      s.fstep = none ∧ (∀ a, memByte s.mem a = none) ∧ s.fault = none ∧ s.refused = none ∧ s.history = [] ∧
      s.port.call = none ∧ s.delayOutstanding = false) ∧
    ∃ c, State.reset = resetWith c

/-- 60 R263, 70 R273: there is a run exactly of a configuration whose parameters lie in their ranges; it begins in the reset state
with the program loaded and CPC = 0. -/
def Obligations.BootChecksTheConfiguration : Prop :=
  ∀ (c : Params) (program : List Word),
    (c.bufAddr.toNat % 8 = 0 ∧ c.bufAddr ≠ 0 ∧ (∀ e ∈ c.osErr, e ≠ 0) →
      boot c program = .next { resetWith c with program := program }) ∧
      (¬ (c.bufAddr.toNat % 8 = 0 ∧ c.bufAddr ≠ 0 ∧ ∀ e ∈ c.osErr, e ≠ 0) → boot c program = .refused .configRefused)

/-- 44 R221, 00 R14: a step is one transition of the one agent that has a step: the client's request at CPC, decoded, or its next
step of a fetch (log 11's division of it); POLL's ISSUE; the transport's performing of the outstanding image, decoded (log 14's
reading); the timer's DelayDone. -/
def Obligations.StepRunsOneAgent : Prop :=
  ∀ s : State, s.fault = none →
    (∀ i rest, enabled s = [.client] → s.client = .ready → decodeFrame (s.program.drop s.cpc) = .ok (i, rest) →
      step s = exec i s) ∧
      (∀ dst k, enabled s = [.client] → s.client = .fetching dst k false → step s = .next (fetchContinue dst k s)) ∧
      (enabled s = [.poll] → step s = .next (issueStep s)) ∧
      (∀ call, enabled s = [.transport] → s.port.call = some call → step s = exec (decodeImage s.cfg call.image) s) ∧
      (enabled s = [.timer] → step s = .next (timerStep s))

/-- 00 R14, 43 R210: the instruction decoded from an outstanding image performs exactly that image. -/
def Obligations.DecodedImageIsPerformed : Prop :=
  ∀ (c : Params) (img : Image), performs c img (decodeImage c img) = some img

/-- 60 R243: in a state that holds a fault, no agent takes a step; so every step leaves a state without one, or records the fault it
raises and appends it to the history. -/
def Obligations.FaultsEndTheRun : Prop :=
  (∀ (s : State) (f : Fault), s.fault = some f → step s = .fault f ∧ endsWell s = false) ∧
    ∀ (s t : State) (f : Fault), step s = .next t → t.fault = some f → s.fault = none ∧ t.history = s.history ++ [.fault f]

/-- 60 R254: all faults are precise: the faulting step has no effect but the fault record and its history entry. -/
def Obligations.FaultsArePrecise : Prop :=
  ∀ (s t : State) (f : Fault), step s = .next t → t.fault = some f → FaultedFrom s t f

/-- 60 R264: a refused write makes no call and leaves only the mark REFUSED and its XferReq in the history (10 R36, R38); every step
keeps the mark; the refused agent has no further step, and the run does not end well. That the mark names the agent is log 2's. -/
def Obligations.RefusedWritesEndTheAgent : Prop :=
  (∀ (s t : State) (m : RefusalMark), step s = .next t → s.refused = none → t.refused = some m →
    ∃ o img, m = .writePathRefused o ∧ writeFlagOf s.cfg img ≠ 0 ∧ s.port.call = none ∧
      t = { s with refused := some m, history := s.history ++ [.xferReq o img], draws := t.draws }) ∧
    (∀ s t : State, step s = .next t → s.refused.isSome = true → t.refused.isSome = true) ∧
    (∀ (s t : State), step s = .next t → s.refused = some (.writePathRefused .client) → t.refused = s.refused) ∧
    ∀ s : State,
      (s.refused = some (.writePathRefused .client) → .client ∉ enabled s) ∧
        (s.refused = some (.writePathRefused .poll) → .poll ∉ enabled s) ∧
        (s.refused.isSome = true → endsWell s = false)

/-- 10 R33, R38; 20 R67: every step keeps the configuration and the program, and only appends to the history. -/
def Obligations.ConfigurationProgramAndPastAreKept : Prop :=
  ∀ s t : State, step s = .next t → t.cfg = s.cfg ∧ t.program = s.program ∧ ∃ es, t.history = s.history ++ es

/-- 20 R51 (the canonical form is log 18's): every step keeps the memory's canonical form. -/
def Obligations.MemoryStaysCanonical : Prop :=
  ∀ s t : State, Memory.wf s.mem = true → step s = .next t → Memory.wf t.mem = true

/-- 20 R50, R52; 43 R202: in a consistent state, no step changes a byte of host memory outside the buffer; and POLL's own steps, the
timer's and the answers to POLL change none at all. -/
def Obligations.HostMemoryChangesInTheBufferOnly : Prop :=
  ∀ s t : State, Consistent s → step s = .next t →
    (∀ x, x < s.cfg.bufAddr.toNat ∨ s.cfg.bufAddr.toNat + 512 ≤ x → memByte t.mem x = memByte s.mem x) ∧
      (s.poll.pstate = .checking → t.mem = s.mem)

/-- 10 R24, R25, R28, R29; 20 R65; 43 R200; 44 R233, R238 (a): every step keeps the invariant of the machine. -/
def Obligations.EveryStepKeepsConsistent : Prop := ∀ s t : State, Consistent s → step s = .next t → Consistent t

/-- The invariant holds after reset, under every configuration and with any program loaded. -/
def Obligations.ResetIsConsistent : Prop :=
  ∀ (c : Params) (program : List Word), Consistent { resetWith c with program := program }

/-- 20 R63, 44 R220: in a consistent state at most one agent has a step, so no order between agents is ever free. -/
def Obligations.AtMostOneAgentHasAStep : Prop := ∀ s : State, Consistent s → (enabled s).length ≤ 1

/-- 00 R18: a consistent state that holds no fault and no refusal has a next step, or the run has ended well: no run is stuck. -/
def Obligations.NoRunIsStuck : Prop :=
  ∀ s : State, Consistent s → s.fault = none → s.refused = none → (∃ t, step s = .next t) ∨ EndsWell s

end
end

