-- ==== Sys2Proof/Laws/Image.lean ====
section
/-! SUPPORT. What the byte images and the CODEC can do: reading after writing, in every byte order and layout. -/

namespace Sys2Proof.Machine

/-! ### Bytes -/

theorem imgByte_setIfInBounds (img : Image) (o i : Nat) (b : Byte) (ho : o < 72) :
    imgByte (img.setIfInBounds o b) i = if o = i then b else imgByte img i := by
  unfold imgByte
  rw [Vector.getElem?_setIfInBounds]
  split <;> rename_i h
  · subst h; simp
  · rfl

/-- Writing bytes below `i` leaves byte `i`. -/
theorem imgByte_setBytes_lt (bs : List Byte) : ∀ (img : Image) (o i : Nat), i < o → o + bs.length ≤ 72 →
    imgByte (setBytes img o bs) i = imgByte img i := by
  induction bs with
  | nil => intro img o i _ _; rfl
  | cons b bs ih =>
    intro img o i hi hl
    simp only [List.length_cons] at hl
    rw [setBytes, ih _ _ _ (by omega) (by omega), imgByte_setIfInBounds _ _ _ _ (by omega), if_neg (by omega)]

/-- The whole effect of writing a run of bytes inside the image (00 R10). -/
theorem imgByte_setBytes (bs : List Byte) : ∀ (img : Image) (o i : Nat), o + bs.length ≤ 72 →
    imgByte (setBytes img o bs) i = if o ≤ i ∧ i < o + bs.length then bs.getD (i - o) 0 else imgByte img i := by
  induction bs with
  | nil => intro img o i _; rw [if_neg (by simp only [List.length_nil]; omega)]; rfl
  | cons b bs ih =>
    intro img o i hl
    simp only [List.length_cons] at hl ⊢
    rw [setBytes, ih _ _ _ (by omega), imgByte_setIfInBounds _ _ _ _ (by omega)]
    by_cases h1 : o = i
    · subst h1
      rw [if_neg (by omega), if_pos rfl, if_pos (by omega), Nat.sub_self]; rfl
    · by_cases h2 : o ≤ i ∧ i < o + (bs.length + 1)
      · rw [if_pos (by omega), if_pos h2]
        obtain ⟨k, hk⟩ : ∃ k, i - o = k + 1 := ⟨i - o - 1, by omega⟩
        rw [hk, show i - (o + 1) = k by omega]; rfl
      · rw [if_neg (by omega), if_neg h1, if_neg h2]

@[simp] theorem imgByte_zeros72 (i : Nat) : imgByte zeros72 i = 0 := by
  unfold imgByte zeros72
  by_cases h : i < 72
  · rw [Vector.getElem?_eq_getElem h]; simp
  · rw [Vector.getElem?_eq_none (by omega)]; rfl

/-- Two images with the same 72 bytes are equal. -/
theorem image_ext (a b : Image) (h : ∀ i, i < 72 → imgByte a i = imgByte b i) : a = b := by
  apply Vector.ext
  intro i hi
  have := h i hi
  simpa [imgByte, Vector.getElem?_eq_getElem hi] using this

/-! ### Byte order -/

theorem assemble32_byte32 (e : Endian) (v : Word) :
    assemble32 e (byte32 e v 0) (byte32 e v 1) (byte32 e v 2) (byte32 e v 3) = v := by
  cases e <;> simp only [assemble32, byte32] <;>
  · apply BitVec.eq_of_getLsbD_eq
    intro i hi
    simp only [BitVec.getLsbD_append, BitVec.getLsbD_extractLsb']
    interval_cases i <;> simp

theorem assemble64_byte64 (e : Endian) (v : DWord) :
    assemble64 e (byte64 e v 0) (byte64 e v 1) (byte64 e v 2) (byte64 e v 3)
      (byte64 e v 4) (byte64 e v 5) (byte64 e v 6) (byte64 e v 7) = v := by
  cases e <;> simp only [assemble64, byte64] <;>
  · apply BitVec.eq_of_getLsbD_eq
    intro i hi
    simp only [BitVec.getLsbD_append, BitVec.getLsbD_extractLsb']
    interval_cases i <;> simp

/-- Every word is some four bytes: byte `k` of the word assembled from four bytes is the `k`-th. -/
theorem byte32_assemble32 (e : Endian) (b0 b1 b2 b3 : Byte) :
    byte32 e (assemble32 e b0 b1 b2 b3) 0 = b0 ∧ byte32 e (assemble32 e b0 b1 b2 b3) 1 = b1 ∧
      byte32 e (assemble32 e b0 b1 b2 b3) 2 = b2 ∧ byte32 e (assemble32 e b0 b1 b2 b3) 3 = b3 := by
  cases e <;> simp only [assemble32, byte32] <;> refine ⟨?_, ?_, ?_, ?_⟩ <;>
  · apply BitVec.eq_of_getLsbD_eq
    intro i hi
    simp only [BitVec.getLsbD_extractLsb', BitVec.getLsbD_append]
    interval_cases i <;> simp

theorem byte64_assemble64 (e : Endian) (b0 b1 b2 b3 b4 b5 b6 b7 : Byte) :
    [byte64 e (assemble64 e b0 b1 b2 b3 b4 b5 b6 b7) 0, byte64 e (assemble64 e b0 b1 b2 b3 b4 b5 b6 b7) 1,
      byte64 e (assemble64 e b0 b1 b2 b3 b4 b5 b6 b7) 2, byte64 e (assemble64 e b0 b1 b2 b3 b4 b5 b6 b7) 3,
      byte64 e (assemble64 e b0 b1 b2 b3 b4 b5 b6 b7) 4, byte64 e (assemble64 e b0 b1 b2 b3 b4 b5 b6 b7) 5,
      byte64 e (assemble64 e b0 b1 b2 b3 b4 b5 b6 b7) 6, byte64 e (assemble64 e b0 b1 b2 b3 b4 b5 b6 b7) 7] =
    [b0, b1, b2, b3, b4, b5, b6, b7] := by
  cases e <;> simp only [assemble64, byte64, List.cons.injEq, and_true] <;> refine ⟨?_, ?_, ?_, ?_, ?_, ?_, ?_, ?_⟩ <;>
  · apply BitVec.eq_of_getLsbD_eq
    intro i hi
    simp only [BitVec.getLsbD_extractLsb', BitVec.getLsbD_append]
    interval_cases i <;> simp

/-! ### 32-bit and 64-bit accesses -/

theorem imgByte_set32 (e : Endian) (img : Image) (o : Nat) (v : Word) (i : Nat) (h : o + 4 ≤ 72) :
    imgByte (set32 e img o v) i = if o ≤ i ∧ i < o + 4 then byte32 e v (i - o) else imgByte img i := by
  rw [set32, imgByte_setBytes _ _ _ _ (by simpa using h)]
  simp only [List.length_cons, List.length_nil, Nat.zero_add, Nat.reduceAdd]
  split
  · obtain ⟨k, hk⟩ : ∃ k, i - o = k ∧ k < 4 := ⟨i - o, rfl, by omega⟩
    obtain ⟨hk, h4⟩ := hk
    rw [hk]
    interval_cases k <;> rfl
  · rfl

theorem imgByte_set64 (e : Endian) (img : Image) (o : Nat) (v : DWord) (i : Nat) (h : o + 8 ≤ 72) :
    imgByte (set64 e img o v) i = if o ≤ i ∧ i < o + 8 then byte64 e v (i - o) else imgByte img i := by
  rw [set64, imgByte_setBytes _ _ _ _ (by simpa using h)]
  simp only [List.length_cons, List.length_nil, Nat.zero_add, Nat.reduceAdd]
  split
  · obtain ⟨k, hk⟩ : ∃ k, i - o = k ∧ k < 8 := ⟨i - o, rfl, by omega⟩
    obtain ⟨hk, h8⟩ := hk
    rw [hk]
    interval_cases k <;> rfl
  · rfl

/-- What was written is read back, byte by byte. -/
theorem get32_set32 (e : Endian) (img : Image) (o : Nat) (v : Word) (h : o + 4 ≤ 72) :
    get32 e (set32 e img o v) o = v := by
  simp (disch := omega) only [get32, imgByte_set32 _ _ _ _ _ h, if_pos, Nat.sub_self, Nat.add_sub_cancel_left,
    assemble32_byte32]

theorem get64_set64 (e : Endian) (img : Image) (o : Nat) (v : DWord) (h : o + 8 ≤ 72) :
    get64 e (set64 e img o v) o = v := by
  simp (disch := omega) only [get64, imgByte_set64 _ _ _ _ _ h, if_pos, Nat.sub_self, Nat.add_sub_cancel_left,
    assemble64_byte64]

/-- A read of other bytes than those written sees no write. -/
theorem get32_set32_of_disjoint (e : Endian) (img : Image) (o p : Nat) (v : Word) (h : o + 4 ≤ 72)
    (hd : p + 4 ≤ o ∨ o + 4 ≤ p) : get32 e (set32 e img o v) p = get32 e img p := by
  simp (disch := omega) only [get32, imgByte_set32 _ _ _ _ _ h, if_neg]

theorem get32_set64_of_disjoint (e : Endian) (img : Image) (o p : Nat) (v : DWord) (h : o + 8 ≤ 72)
    (hd : p + 4 ≤ o ∨ o + 8 ≤ p) : get32 e (set64 e img o v) p = get32 e img p := by
  simp (disch := omega) only [get32, imgByte_set64 _ _ _ _ _ h, if_neg]

theorem get64_set32_of_disjoint (e : Endian) (img : Image) (o p : Nat) (v : Word) (h : o + 4 ≤ 72)
    (hd : p + 8 ≤ o ∨ o + 4 ≤ p) : get64 e (set32 e img o v) p = get64 e img p := by
  simp (disch := omega) only [get64, imgByte_set32 _ _ _ _ _ h, if_neg]

@[simp] theorem get32_zeros72 (e : Endian) (o : Nat) : get32 e zeros72 o = 0 := by cases e <;> simp [get32, assemble32]
@[simp] theorem get64_zeros72 (e : Endian) (o : Nat) : get64 e zeros72 o = 0 := by cases e <;> simp [get64, assemble64]

/-! ### Fields (30 R73): their places are disjoint, below the pointer, and inside the image -/

theorem fieldOff_le (l : Layout) (f : WordField) : fieldOff l f + 4 ≤ 60 := by cases l <;> cases f <;> decide

theorem fieldOff_disjoint (l : Layout) (f g : WordField) (h : f ≠ g) :
    fieldOff l f + 4 ≤ fieldOff l g ∨ fieldOff l g + 4 ≤ fieldOff l f := by
  cases l <;> cases f <;> cases g <;> first | exact absurd rfl h | decide

@[simp] theorem getField_setField (c : Params) (img : Image) (f : WordField) (v : Word) :
    getField c (setField c img f v) f = v :=
  get32_set32 _ _ _ _ (by have := fieldOff_le c.layout f; omega)

theorem getField_setField_of_ne (c : Params) (img : Image) (f g : WordField) (v : Word) (h : f ≠ g) :
    getField c (setField c img f v) g = getField c img g :=
  get32_set32_of_disjoint _ _ _ _ _ (by have := fieldOff_le c.layout f; omega)
    ((fieldOff_disjoint c.layout f g h).symm)

@[simp] theorem getField_setPtr (c : Params) (img : Image) (f : WordField) (v : DWord) :
    getField c (setPtr c img v) f = getField c img f :=
  get32_set64_of_disjoint _ _ _ _ _ (by decide) (by have := fieldOff_le c.layout f; simp only [offPtr]; omega)

@[simp] theorem ptrOf_setPtr (c : Params) (img : Image) (v : DWord) : ptrOf c (setPtr c img v) = v :=
  get64_set64 _ _ _ _ (by decide)

@[simp] theorem ptrOf_setField (c : Params) (img : Image) (f : WordField) (v : Word) :
    ptrOf c (setField c img f v) = ptrOf c img := by
  have := fieldOff_le c.layout f
  exact get64_set32_of_disjoint _ _ _ _ _ (by omega) (by simp only [offPtr]; omega)

@[simp] theorem getField_zeros72 (c : Params) (f : WordField) : getField c zeros72 f = 0 := get32_zeros72 _ _
@[simp] theorem ptrOf_zeros72 (c : Params) : ptrOf c zeros72 = 0 := get64_zeros72 _ _

/-- A field read after a field written: the one written, or the other as it was. -/
theorem getField_setField_ite (c : Params) (img : Image) (f g : WordField) (v : Word) :
    getField c (setField c img f v) g = if f = g then v else getField c img g := by
  split
  · subst_vars; simp
  · exact getField_setField_of_ne _ _ _ _ _ ‹_›

/-- Copying a field from another image copies its four bytes and no other. -/
theorem imgByte_copyField (c : Params) (img src : Image) (f : WordField) (i : Nat) :
    imgByte (setField c img f (getField c src f)) i =
      if fieldOff c.layout f ≤ i ∧ i < fieldOff c.layout f + 4 then imgByte src i else imgByte img i := by
  have hf := fieldOff_le c.layout f
  rw [setField, getField, get32, imgByte_set32 _ _ _ _ _ (by omega)]
  split
  · obtain ⟨h0, h1, h2, h3⟩ := byte32_assemble32 c.endian (imgByte src (fieldOff c.layout f))
      (imgByte src (fieldOff c.layout f + 1)) (imgByte src (fieldOff c.layout f + 2)) (imgByte src (fieldOff c.layout f + 3))
    obtain ⟨k, hk, h4⟩ : ∃ k, i = fieldOff c.layout f + k ∧ k < 4 := ⟨i - fieldOff c.layout f, by omega, by omega⟩
    subst hk
    rw [Nat.add_sub_cancel_left]
    interval_cases k <;> assumption
  · rfl

/-- Copying the pointer from another image copies its eight bytes and no other. -/
theorem imgByte_copyPtr (c : Params) (img src : Image) (i : Nat) :
    imgByte (setPtr c img (ptrOf c src)) i = if 64 ≤ i ∧ i < 72 then imgByte src i else imgByte img i := by
  show imgByte (set64 c.endian img 64 (get64 c.endian src 64)) i = _
  rw [get64, imgByte_set64 _ _ _ _ _ (by decide)]
  by_cases hi : 64 ≤ i ∧ i < 72
  · rw [if_pos hi, if_pos hi]
    have h := byte64_assemble64 c.endian (imgByte src 64) (imgByte src 65) (imgByte src 66) (imgByte src 67)
      (imgByte src 68) (imgByte src 69) (imgByte src 70) (imgByte src 71)
    simp only [List.cons.injEq, and_true] at h
    obtain ⟨h0, h1, h2, h3, h4, h5, h6, h7⟩ := h
    obtain ⟨k, hk, h8⟩ : ∃ k, i = 64 + k ∧ k < 8 := ⟨i - 64, by omega, by omega⟩
    subst hk
    rw [Nat.add_sub_cancel_left]
    interval_cases k <;> assumption
  · rw [if_neg hi, if_neg hi]

/-- A field written changes its own four bytes only. -/
theorem imgByte_setField_of_not (c : Params) (img : Image) (f : WordField) (v : Word) (i : Nat)
    (h : ¬ (fieldOff c.layout f ≤ i ∧ i < fieldOff c.layout f + 4)) :
    imgByte (setField c img f v) i = imgByte img i := by
  rw [setField, imgByte_set32 _ _ _ _ _ (by have := fieldOff_le c.layout f; omega), if_neg h]

/-- The pointer written changes bytes 64 to 71 only. -/
theorem imgByte_setPtr_of_lt (c : Params) (img : Image) (v : DWord) (i : Nat) (h : i < 64) :
    imgByte (setPtr c img v) i = imgByte img i := by
  rw [setPtr, imgByte_set64 _ _ _ _ _ (by decide), if_neg (by simp only [offPtr]; omega)]

/-! ### The reserved bytes (30 R73): every other byte is in a field or in the pointer -/

theorem reserved_or_field (l : Layout) (o : Nat) (h : o < 72) :
    isReservedByte l o = true ∨ 64 ≤ o ∨ ∃ f ∈ wordFields, fieldOff l f ≤ o ∧ o < fieldOff l f + 4 := by
  have key : ∀ l : Layout, ∀ o : Fin 72, isReservedByte l o = true ∨ 64 ≤ o.val ∨
      wordFields.any (fun f => decide (fieldOff l f ≤ o.val ∧ o.val < fieldOff l f + 4)) = true := by
    intro l; cases l <;> decide
  rcases key l ⟨o, h⟩ with h | h | h
  · exact .inl h
  · exact .inr (.inl h)
  · simp only [List.any_eq_true, decide_eq_true_eq] at h
    exact .inr (.inr h)

theorem reserved_not_field (l : Layout) (o : Nat) (h : isReservedByte l o = true) :
    o < 64 ∧ ∀ f, ¬ (fieldOff l f ≤ o ∧ o < fieldOff l f + 4) := by
  have ho : o < 64 := by
    cases l <;> simp only [isReservedByte, reservedSlots, List.any_cons, List.any_nil, Bool.or_false, Bool.or_eq_true,
      decide_eq_true_eq] at h <;> omega
  have key : ∀ l : Layout, ∀ o : Fin 64, isReservedByte l o = true →
      wordFields.all (fun f => !decide (fieldOff l f ≤ o.val ∧ o.val < fieldOff l f + 4)) = true := by
    intro l; cases l <;> decide
  refine ⟨ho, fun f hf => ?_⟩
  have := List.all_eq_true.mp (key l ⟨o, ho⟩ h) f (by cases f <;> decide)
  simp only [Bool.not_eq_true', decide_eq_false_iff_not] at this
  exact this hf

/-- A field written leaves every reserved byte. -/
theorem imgByte_setField_reserved (c : Params) (img : Image) (f : WordField) (v : Word) (o : Nat)
    (h : isReservedByte c.layout o = true) : imgByte (setField c img f v) o = imgByte img o :=
  imgByte_setField_of_not _ _ _ _ _ ((reserved_not_field _ _ h).2 f)

/-- The pointer written leaves every reserved byte. -/
theorem imgByte_setPtr_reserved (c : Params) (img : Image) (v : DWord) (o : Nat) (h : isReservedByte c.layout o = true) :
    imgByte (setPtr c img v) o = imgByte img o :=
  imgByte_setPtr_of_lt _ _ _ _ (reserved_not_field _ _ h).1

/-- An image is its fields, its pointer and its reserved bytes. -/
theorem image_ext_fields (c : Params) (a b : Image) (hf : ∀ f, getField c a f = getField c b f) (hp : ptrOf c a = ptrOf c b)
    (hr : ∀ o, isReservedByte c.layout o = true → imgByte a o = imgByte b o) : a = b := by
  apply image_ext
  intro i hi
  rcases reserved_or_field c.layout i hi with h | h | ⟨f, -, h⟩
  · exact hr i h
  · have e1 := imgByte_copyPtr c b a i
    have e2 := imgByte_copyPtr c b b i
    rw [if_pos ⟨h, hi⟩] at e1 e2
    rw [← e1, ← e2, hp]
  · have e1 := imgByte_copyField c b a f i
    have e2 := imgByte_copyField c b b f i
    rw [if_pos h] at e1 e2
    rw [← e1, ← e2, hf]

theorem reservedZero_iff (l : Layout) (img : Image) :
    reservedZero l img = true ↔ ∀ o, isReservedByte l o = true → imgByte img o = 0 := by
  simp only [reservedZero, List.all_eq_true, List.mem_range, Bool.or_eq_true, Bool.not_eq_true', decide_eq_true_eq]
  constructor
  · intro h o ho
    rcases h o (by have := (reserved_not_field l o ho).1; omega) with h | h
    · rw [ho] at h; cases h
    · exact h
  · intro h o _
    cases ho : isReservedByte l o with
    | false => exact .inl rfl
    | true => exact .inr (h o ho)

/-! ### The operations, field by field (40 R101, R104 to R106, R109) -/

@[simp] theorem ptrOf_setResp (c : Params) (img : Image) (r : Resp) : ptrOf c (setResp c img r) = ptrOf c img := by
  simp [setResp]

@[simp] theorem respOf_setResp (c : Params) (img : Image) (r : Resp) : respOf c (setResp c img r) = r := by
  simp [respOf, setResp, getField_setField_ite]

/-- setResp changes no field but the response words. -/
theorem getField_setResp (c : Params) (img : Image) (r : Resp) (f : WordField)
    (h : f ≠ .resp0 ∧ f ≠ .resp1 ∧ f ≠ .resp2 ∧ f ≠ .resp3) : getField c (setResp c img r) f = getField c img f := by
  obtain ⟨h0, h1, h2, h3⟩ := h
  simp [setResp, getField_setField_ite, h0.symm, h1.symm, h2.symm, h3.symm]

/-- UNPACK of PACK gives the record back (40 R103 (a)). -/
theorem unpackImg_packImg (c : Params) (f : Fields) : unpackImg c (packImg c f) = f := by
  cases f
  simp [unpackImg, packImg, respOf, setResp, getField_setField_ite]

theorem getField_packImg (c : Params) (g : Fields) (f : WordField) :
    getField c (packImg c g) f =
      match f with
      | .writeFlag => g.writeFlag
      | .opcode => g.opcode
      | .argument => g.argument
      | .resp0 => g.response.r0
      | .resp1 => g.response.r1
      | .resp2 => g.response.r2
      | .resp3 => g.response.r3
      | .flags => g.flags
      | .blockSize => g.blockSize
      | .blockCount => g.blockCount
      | .postsleepMin => g.postsleepMin
      | .postsleepMax => g.postsleepMax
      | .dataTimeout => g.dataTimeout
      | .cmdTimeout => g.cmdTimeout := by
  cases f <;> simp [packImg, setResp, getField_setField_ite]

@[simp] theorem ptrOf_packImg (c : Params) (g : Fields) : ptrOf c (packImg c g) = g.dataPointer := by simp [packImg]

theorem getField_buildImg (c : Params) (op arg fl : Word) (f : WordField) :
    getField c (buildImg c op arg fl) f =
      match f with | .opcode => op | .argument => arg | .flags => fl | _ => 0 := by
  cases f <;> simp [buildImg, getField_setField_ite]

@[simp] theorem ptrOf_buildImg (c : Params) (op arg fl : Word) : ptrOf c (buildImg c op arg fl) = 0 := by simp [buildImg]

theorem getField_withDataImg (c : Params) (img : Image) (a : DWord) (n z : Word) (f : WordField) :
    getField c (withDataImg c img a n z) f =
      match f with | .blockCount => n | .blockSize => z | g => getField c img g := by
  cases f <;> simp [withDataImg, getField_setField_ite]

@[simp] theorem ptrOf_withDataImg (c : Params) (img : Image) (a : DWord) (n z : Word) :
    ptrOf c (withDataImg c img a n z) = a := by simp [withDataImg]

theorem getField_withTimeoutImg (c : Params) (img : Image) (m n : Word) (f : WordField) :
    getField c (withTimeoutImg c img m n) f =
      match f with | .cmdTimeout => m | .dataTimeout => n | g => getField c img g := by
  cases f <;> simp [withTimeoutImg, getField_setField_ite]

@[simp] theorem ptrOf_withTimeoutImg (c : Params) (img : Image) (m n : Word) :
    ptrOf c (withTimeoutImg c img m n) = ptrOf c img := by simp [withTimeoutImg]

/-! ### The operations and the reserved bytes (40 R103 (c), R105, R106, R107 (c)) -/

theorem packImg_reserved (c : Params) (f : Fields) (o : Nat) (h : isReservedByte c.layout o = true) :
    imgByte (packImg c f) o = 0 := by
  simp only [packImg, setResp, imgByte_setField_reserved _ _ _ _ _ h, imgByte_setPtr_reserved _ _ _ _ h, imgByte_zeros72]

theorem buildImg_reserved (c : Params) (op arg fl : Word) (o : Nat) (h : isReservedByte c.layout o = true) :
    imgByte (buildImg c op arg fl) o = 0 := by
  simp only [buildImg, imgByte_setField_reserved _ _ _ _ _ h, imgByte_zeros72]

theorem withTimeoutImg_reserved (c : Params) (img : Image) (cms dns : Word) (o : Nat) (h : isReservedByte c.layout o = true) :
    imgByte (withTimeoutImg c img cms dns) o = imgByte img o := by
  simp only [withTimeoutImg, imgByte_setField_reserved _ _ _ _ _ h]

theorem withDataImg_reserved (c : Params) (img : Image) (a : DWord) (n z : Word) (o : Nat)
    (h : isReservedByte c.layout o = true) : imgByte (withDataImg c img a n z) o = imgByte img o := by
  simp only [withDataImg, imgByte_setField_reserved _ _ _ _ _ h, imgByte_setPtr_reserved _ _ _ _ h]

theorem setResp_reserved (c : Params) (img : Image) (r : Resp) (o : Nat) (h : isReservedByte c.layout o = true) :
    imgByte (setResp c img r) o = imgByte img o := by
  simp only [setResp, imgByte_setField_reserved _ _ _ _ _ h]

/-- The CMD13 preset: its opcode, no write, no data phase (40 R110). -/
theorem sendStatusImg_fields (c : Params) (arg : Word) :
    opcodeOf c (sendStatusImg c arg) = Config.opcSendStatus ∧ writeFlagOf c (sendStatusImg c arg) = 0 ∧
      blocksOf c (sendStatusImg c arg) = 0 ∧ argOf c (sendStatusImg c arg) = arg ∧
      flagsOf c (sendStatusImg c arg) = flagsSendStatus := by
  simp [opcodeOf, writeFlagOf, blocksOf, argOf, flagsOf, sendStatusImg, getField_buildImg]

/-- The CMD8 preset: its opcode, no write, one block of 512 bytes at the buffer (40 R111). -/
theorem sendExtCsdImg_fields (c : Params) (a : DWord) :
    opcodeOf c (sendExtCsdImg c a) = Config.opcSendExtCsd ∧ writeFlagOf c (sendExtCsdImg c a) = 0 ∧
      blocksOf c (sendExtCsdImg c a) = 1 ∧ blkszOf c (sendExtCsdImg c a) = 512 ∧ ptrOf c (sendExtCsdImg c a) = a ∧
      argOf c (sendExtCsdImg c a) = 0 ∧ flagsOf c (sendExtCsdImg c a) = flagsSendExtCsd := by
  simp [opcodeOf, writeFlagOf, blocksOf, blkszOf, argOf, flagsOf, sendExtCsdImg, getField_buildImg, getField_withDataImg]

end Sys2Proof.Machine
end

