-- ==== Sys2Proof/Laws/Decode.lean ====
section
/-! SUPPORT. The header word and the fields of the decoder (30 R86): what each field of a header reads back as, and what a frame
with a given header decodes to. -/

namespace Sys2Proof

open Sys2Proof.Machine

theorem header_bytes (a b c : Byte) :
    ((0 : Byte) ++ c ++ b ++ a).extractLsb' 0 8 = a ∧ ((0 : Byte) ++ c ++ b ++ a).extractLsb' 8 8 = b ∧
      ((0 : Byte) ++ c ++ b ++ a).extractLsb' 16 8 = c ∧ ((0 : Byte) ++ c ++ b ++ a).extractLsb' 24 8 = 0 := by
  refine ⟨?_, ?_, ?_, ?_⟩ <;> apply BitVec.eq_of_getLsbD_eq <;> intro i hi <;>
    simp only [BitVec.getLsbD_append, BitVec.getLsbD_extractLsb'] <;> interval_cases i <;> simp

/-- The fields of a header word read back as they were put in. -/
theorem header_fields (o d s : Nat) (ho : o < 256) (hd : d < 256) (hs : s < 256) :
    hdrOpsel (header o d s) = o ∧ hdrDst (header o d s) = d ∧ hdrSrc (header o d s) = s ∧ hdrHigh (header o d s) = 0 := by
  have h := header_bytes (BitVec.ofNat 8 o) (BitVec.ofNat 8 d) (BitVec.ofNat 8 s)
  simp only [hdrOpsel, hdrDst, hdrSrc, hdrHigh, header]
  rw [h.1, h.2.1, h.2.2.1, h.2.2.2]
  simp only [BitVec.toNat_ofNat]
  exact ⟨Nat.mod_eq_of_lt ho, Nat.mod_eq_of_lt hd, Nat.mod_eq_of_lt hs, rfl⟩

/-- A frame decodes by its OPSEL, DST and SRC. -/
theorem decodeFrame_header (o d s : Nat) (ops : List Word) (ho : o < 256) (hd : d < 256) (hs : s < 256) :
    decodeFrame (header o d s :: ops) = decodeOpsel o d s ops := by
  obtain ⟨h1, h2, h3, h4⟩ := header_fields o d s ho hd hs
  simp only [decodeFrame, h1, h2, h3, h4, if_true]

/-- A header with bits 31:24 zero is the header of its own fields. -/
theorem header_eq (h : Word) (hh : hdrHigh h = 0) : header (hdrOpsel h) (hdrDst h) (hdrSrc h) = h := by
  have hz : h.extractLsb' 24 8 = 0 := by
    apply BitVec.eq_of_toNat_eq
    simpa [hdrHigh] using hh
  simp only [header, hdrOpsel, hdrDst, hdrSrc, BitVec.ofNat_toNat, BitVec.setWidth_eq]
  apply BitVec.eq_of_getLsbD_eq
  intro i hi
  have hb : ∀ k, k < 8 → h.getLsbD (24 + k) = false := by
    intro k hk
    have := congrArg (fun v => v.getLsbD k) hz
    simpa [BitVec.getLsbD_extractLsb', hk] using this
  simp only [BitVec.getLsbD_append, BitVec.getLsbD_extractLsb']
  have h24 := hb 0 (by omega)
  have h25 := hb 1 (by omega)
  have h26 := hb 2 (by omega)
  have h27 := hb 3 (by omega)
  have h28 := hb 4 (by omega)
  have h29 := hb 5 (by omega)
  have h30 := hb 6 (by omega)
  have h31 := hb 7 (by omega)
  interval_cases i <;> simp_all

@[simp] theorem needCd_val (d : Fin 16) : needCd d = .ok d := by simp [needCd]
@[simp] theorem needCw_val (d : Fin 32) : needCw d = .ok d := by simp [needCw]
@[simp] theorem needReg_val (d : Fin 8) : needReg d = .ok d := by simp [needReg]
@[simp] theorem needZero_zero : needZero 0 = .ok () := rfl

/-- A 64-bit operand is its two words (30 R84). -/
theorem high_low (a : DWord) : a.extractLsb' 32 32 ++ a.extractLsb' 0 32 = a := by
  apply BitVec.eq_of_getLsbD_eq
  intro i hi
  simp only [BitVec.getLsbD_append, BitVec.getLsbD_extractLsb']
  by_cases h : i < 32
  · simp [h]
  · have : i - 32 < 32 := by omega
    simp [h, this, show 32 + (i - 32) = i by omega]

/-! ### What a frame that decodes was -/

theorem bind_ok {α β : Type} {x : Except Reject α} {f : α → Except Reject β} {b : β} (h : (x >>= f) = .ok b) :
    ∃ a, x = .ok a ∧ f a = .ok b := by
  cases x with
  | error e => cases h
  | ok a => exact ⟨a, rfl, h⟩

theorem needCd_ok {n : Nat} {d : Fin 16} (h : needCd n = .ok d) : n = d := by
  unfold needCd at h
  split at h
  · cases h; rfl
  · cases h
theorem needCw_ok {n : Nat} {d : Fin 32} (h : needCw n = .ok d) : n = d := by
  unfold needCw at h
  split at h
  · cases h; rfl
  · cases h
theorem needReg_ok {n : Nat} {d : Fin 8} (h : needReg n = .ok d) : n = d := by
  unfold needReg at h
  split at h
  · cases h; rfl
  · cases h
theorem needZero_ok {n : Nat} {u : Unit} (h : needZero n = .ok u) : n = 0 := by
  unfold needZero at h
  split at h
  · assumption
  · cases h

/-- The two words of a 64-bit operand (30 R84). -/
theorem low_high (lo hi : Word) : (hi ++ lo : DWord).extractLsb' 0 32 = lo ∧ (hi ++ lo : DWord).extractLsb' 32 32 = hi := by
  constructor <;> apply BitVec.eq_of_getLsbD_eq <;> intro i h <;>
    simp only [BitVec.getLsbD_append, BitVec.getLsbD_extractLsb']
  · simp [h]
  · simp [h, show ¬ (32 + i < 32) by omega]
/-- What decodes is a legal request of F-REQ, and its frame is the words it was read from. -/
theorem decodeOpsel_ok (o d s : Nat) (ops : List Word) (i : Instr) (rest : List Word)
    (h : decodeOpsel o d s ops = .ok (i, rest)) :
    isRequest i = true ∧ i.wellFormed = true ∧ header o d s :: ops = frameWords i ++ rest := by
  unfold decodeOpsel at h
  split at h
  case h_1 =>
    obtain ⟨_, hd, h1⟩ := bind_ok h
    obtain ⟨_, hs, h2⟩ := bind_ok h1
    cases needZero_ok hd; cases needZero_ok hs
    cases h2
    exact ⟨rfl, rfl, rfl⟩
  case h_2 =>
    unfold decBuild at h
    split at h
    swap
    · cases h
    obtain ⟨d, hd, h1⟩ := bind_ok h
    obtain ⟨_, hs, h2⟩ := bind_ok h1
    cases needCd_ok hd; cases needZero_ok hs
    cases h2
    exact ⟨rfl, rfl, rfl⟩
  case h_3 =>
    unfold decWithTimeout at h
    split at h
    swap
    · cases h
    obtain ⟨d, hd, h1⟩ := bind_ok h
    obtain ⟨s, hs, h2⟩ := bind_ok h1
    cases needCd_ok hd; cases needCd_ok hs
    cases h2
    exact ⟨rfl, rfl, rfl⟩
  case h_4 =>
    unfold decWithData at h
    split at h
    swap
    · cases h
    obtain ⟨d, hd, h1⟩ := bind_ok h
    obtain ⟨s, hs, h2⟩ := bind_ok h1
    cases needCd_ok hd; cases needCd_ok hs
    cases h2
    exact ⟨rfl, rfl, by simp only [frameWords, (low_high _ _).1, (low_high _ _).2, List.cons_append, List.nil_append]⟩
  case h_5 =>
    unfold decPack at h
    split at h
    swap
    · cases h
    obtain ⟨d, hd, h1⟩ := bind_ok h
    obtain ⟨_, hs, h2⟩ := bind_ok h1
    cases needCd_ok hd; cases needZero_ok hs
    cases h2
    exact ⟨rfl, rfl, by simp only [frameWords, fieldWords, (low_high _ _).1, (low_high _ _).2, List.cons_append, List.nil_append]⟩
  case h_6 =>
    obtain ⟨d, hd, h1⟩ := bind_ok h
    obtain ⟨s, hs, h2⟩ := bind_ok h1
    cases needCw_ok hd; cases needCd_ok hs
    split at h2
    · cases h2
      exact ⟨rfl, by simpa [Instr.wellFormed] using ‹_›, rfl⟩
    · cases h2
  case h_7 =>
    obtain ⟨d, hd, h1⟩ := bind_ok h
    obtain ⟨s, hs, h2⟩ := bind_ok h1
    cases needCw_ok hd; cases needCw_ok hs
    cases h2
    exact ⟨rfl, rfl, rfl⟩
  case h_8 =>
    obtain ⟨d, hd, h1⟩ := bind_ok h
    obtain ⟨s, hs, h2⟩ := bind_ok h1
    cases needCw_ok hd; cases needCw_ok hs
    cases h2
    exact ⟨rfl, rfl, rfl⟩
  case h_9 =>
    obtain ⟨d, hd, h1⟩ := bind_ok h
    obtain ⟨s, hs, h2⟩ := bind_ok h1
    cases needCw_ok hd; cases needCw_ok hs
    cases h2
    exact ⟨rfl, rfl, rfl⟩
  case h_10 =>
    unfold decEnsureReady at h
    split at h
    swap
    · cases h
    obtain ⟨d, hd, h1⟩ := bind_ok h
    obtain ⟨_, hs, h2⟩ := bind_ok h1
    cases needCw_ok hd; cases needZero_ok hs
    cases h2
    exact ⟨rfl, rfl, rfl⟩
  case h_11 =>
    obtain ⟨r, hs, h1⟩ := bind_ok h
    obtain ⟨d, hd, h2⟩ := bind_ok h1
    cases needCw_ok hd; cases needReg_ok hs
    split at h2
    · cases h2
    · rename_i hn
      cases h2
      exact ⟨rfl, by simp only [Instr.wellFormed, decide_eq_true_eq]; omega, rfl⟩
  case h_12 =>
    obtain ⟨d, hd, h1⟩ := bind_ok h
    obtain ⟨s, hs, h2⟩ := bind_ok h1
    cases needCw_ok hd; cases needCd_ok hs
    cases h2
    exact ⟨rfl, rfl, rfl⟩
  case h_13 =>
    obtain ⟨_, hd, h1⟩ := bind_ok h
    obtain ⟨_, hs, h2⟩ := bind_ok h1
    cases needZero_ok hd; cases needZero_ok hs
    cases h2
    exact ⟨rfl, rfl, rfl⟩
  case h_14 =>
    unfold decReadBuf at h
    split at h
    swap
    · cases h
    obtain ⟨d, hd, h1⟩ := bind_ok h
    obtain ⟨_, hs, h2⟩ := bind_ok h1
    cases needCw_ok hd; cases needZero_ok hs
    split at h2
    · cases h2
      exact ⟨rfl, by simpa [Instr.wellFormed] using ‹_›, rfl⟩
    · cases h2
  case h_15 =>
    unfold decMovi at h
    split at h
    swap
    · cases h
    obtain ⟨d, hd, h1⟩ := bind_ok h
    obtain ⟨_, hs, h2⟩ := bind_ok h1
    cases needCw_ok hd; cases needZero_ok hs
    cases h2
    exact ⟨rfl, rfl, rfl⟩
  case h_16 =>
    unfold decJz at h
    split at h
    swap
    · cases h
    obtain ⟨_, hd, h1⟩ := bind_ok h
    obtain ⟨s, hs, h2⟩ := bind_ok h1
    cases needZero_ok hd; cases needCw_ok hs
    cases h2
    exact ⟨rfl, rfl, rfl⟩
  case h_17 =>
    unfold decJnz at h
    split at h
    swap
    · cases h
    obtain ⟨_, hd, h1⟩ := bind_ok h
    obtain ⟨s, hs, h2⟩ := bind_ok h1
    cases needZero_ok hd; cases needCw_ok hs
    cases h2
    exact ⟨rfl, rfl, rfl⟩
  case h_18 =>
    obtain ⟨d, hd, h1⟩ := bind_ok h
    obtain ⟨_, hs, h2⟩ := bind_ok h1
    cases needCw_ok hd; cases needZero_ok hs
    cases h2
    exact ⟨rfl, rfl, rfl⟩
  case h_19 => cases h

theorem decodeFrame_ok (ws : List Word) (i : Instr) (rest : List Word) (h : decodeFrame ws = .ok (i, rest)) :
    ∃ hd ops, ws = hd :: ops ∧ hdrHigh hd = 0 ∧ decodeOpsel (hdrOpsel hd) (hdrDst hd) (hdrSrc hd) ops = .ok (i, rest) := by
  cases ws with
  | nil => cases h
  | cons hd ops =>
    by_cases hh : hdrHigh hd = 0
    · simp only [decodeFrame, if_pos hh] at h
      exact ⟨hd, ops, rfl, hh, h⟩
    · simp only [decodeFrame, if_neg hh] at h
      cases h

end Sys2Proof
end

