-- ==== Sys2Proof/Laws/Memory.lean ====
section
/-! SUPPORT. Host memory: reading after writing, and the canonical form, which every memory operation keeps (20 R51). -/

namespace Sys2Proof.Machine

theorem memByte_nil (a : Nat) : memByte [] a = none := rfl

theorem memByte_append (m n : List Host.Cell) (a : Nat) : memByte (m ++ n) a = (memByte m a).or (memByte n a) := by
  simp only [memByte, List.find?_append]
  cases m.find? (fun c => decide (c.1 = a)) <;> rfl

theorem memByte_filter (m : List Host.Cell) (p : Nat → Bool) (a : Nat) :
    memByte (m.filter (fun c => p c.1)) a = if p a then memByte m a else none := by
  induction m with
  | nil => simp [memByte]
  | cons c m ih =>
    simp only [memByte] at ih ⊢
    rw [List.filter_cons]
    by_cases h : c.1 = a
    · subst h
      cases hp : p c.1
      · rw [if_neg (by simp), ih, hp]; rfl
      · simp
    · cases hc : p c.1
      · rw [if_neg (by simp), ih, List.find?_cons_of_neg (by simpa using h)]
      · rw [if_pos rfl, List.find?_cons_of_neg (by simpa using h), ih, List.find?_cons_of_neg (by simpa using h)]

theorem memByte_cellsFrom (bs : List Byte) : ∀ (a x : Nat),
    memByte (cellsFrom a bs) x = if a ≤ x ∧ x < a + bs.length then bs[x - a]? else none := by
  induction bs with
  | nil => intro a x; rw [if_neg (by simp only [List.length_nil]; omega)]; rfl
  | cons b bs ih =>
    intro a x
    have := ih (a + 1) x
    simp only [memByte, cellsFrom, List.find?_cons, List.length_cons] at this ⊢
    by_cases h : a = x
    · subst h; simp
    · simp only [h, decide_false]
      rw [this]
      by_cases hx : a ≤ x ∧ x < a + (bs.length + 1)
      · rw [if_pos (by omega), if_pos hx]
        obtain ⟨k, hk⟩ : ∃ k, x - a = k + 1 := ⟨x - a - 1, by omega⟩
        rw [hk, show x - (a + 1) = k by omega]; rfl
      · rw [if_neg (by omega), if_neg hx]

/-- The whole effect of MemWrite on a byte (20 R51): the byte written, or the one that was there. -/
theorem memByte_memStore (m : List Host.Cell) (a : Nat) (bs : List Byte) (x : Nat) :
    memByte (memStore m a bs) x = if a ≤ x ∧ x < a + bs.length then bs[x - a]? else memByte m x := by
  unfold memStore
  cases bs with
  | nil =>
    have h : ¬ (a ≤ x ∧ x < a + ([] : List Byte).length) := by simp only [List.length_nil]; omega
    rw [if_neg h]; rfl
  | cons b bs =>
    simp only [List.isEmpty_cons, Bool.false_eq_true, if_false]
    rw [memByte_append, memByte_append, memByte_filter m (fun k => decide (k < a)),
      memByte_filter m (fun k => decide (a + (b :: bs).length ≤ k)), memByte_cellsFrom]
    have e1 : decide (x < a) = true ↔ x < a := by simp
    have e2 : decide (a + (b :: bs).length ≤ x) = true ↔ a + (b :: bs).length ≤ x := by simp
    by_cases h1 : x < a
    · have h2 : ¬ (a ≤ x ∧ x < a + (b :: bs).length) := by omega
      rw [if_pos (e1.mpr h1), if_neg h2, if_neg h2, if_neg (fun h => by have := e2.mp h; omega)]
      cases memByte m x <;> rfl
    · by_cases h2 : x < a + (b :: bs).length
      · have h3 : a ≤ x ∧ x < a + (b :: bs).length := by omega
        rw [if_neg (fun h => h1 (e1.mp h)), if_pos h3, if_pos h3, if_neg (fun h => by have := e2.mp h; omega)]
        cases (b :: bs)[x - a]? <;> rfl
      · have h3 : ¬ (a ≤ x ∧ x < a + (b :: bs).length) := by omega
        rw [if_neg (fun h => h1 (e1.mp h)), if_neg h3, if_neg h3, if_pos (e2.mpr (by omega))]
        rfl

/-! ### The canonical form -/

/-- The canonical form, as a pairwise order and a bound. -/
theorem risingCells_iff (m : List Host.Cell) : risingCells m = true ↔ m.Pairwise (fun c d => c.1 < d.1) := by
  induction m with
  | nil => simp [risingCells]
  | cons c m ih =>
    cases m with
    | nil => simp [risingCells]
    | cons d m =>
      rw [risingCells, Bool.and_eq_true, decide_eq_true_eq, ih, List.pairwise_cons (a := c)]
      constructor
      · rintro ⟨h, hp⟩
        refine ⟨fun x hx => ?_, hp⟩
        rcases List.mem_cons.mp hx with rfl | hx
        · exact h
        · exact lt_trans h ((List.pairwise_cons.mp hp).1 x hx)
      · rintro ⟨h, hp⟩
        exact ⟨h d (by simp), hp⟩

theorem wf_iff (m : List Host.Cell) :
    Memory.wf m = true ↔ m.Pairwise (fun c d => c.1 < d.1) ∧ ∀ c ∈ m, c.1 < 2 ^ 64 := by
  simp [Memory.wf, risingCells_iff]

theorem cellsFrom_bounds (bs : List Byte) : ∀ (a : Nat) (c : Host.Cell), c ∈ cellsFrom a bs → a ≤ c.1 ∧ c.1 < a + bs.length := by
  induction bs with
  | nil => intro a c h; cases h
  | cons b bs ih =>
    intro a c h
    rcases List.mem_cons.mp h with rfl | h
    · simp
    · have := ih (a + 1) c h
      simp only [List.length_cons]; omega

theorem cellsFrom_pairwise (bs : List Byte) : ∀ a, (cellsFrom a bs).Pairwise (fun c d => c.1 < d.1) := by
  induction bs with
  | nil => intro a; exact List.Pairwise.nil
  | cons b bs ih =>
    intro a
    refine List.Pairwise.cons (fun c h => ?_) (ih (a + 1))
    have := cellsFrom_bounds bs (a + 1) c h
    show a < c.1
    omega

/-- MemWrite within the address space keeps the canonical form. -/
theorem memStore_wf (m : List Host.Cell) (a : Nat) (bs : List Byte) (h : Memory.wf m = true) (ha : addrOk a bs.length = true) :
    Memory.wf (memStore m a bs) = true := by
  unfold memStore
  cases bs with
  | nil => exact h
  | cons b bs =>
    simp only [List.isEmpty_cons, Bool.false_eq_true, if_false]
    rw [wf_iff] at h ⊢
    obtain ⟨hp, hb⟩ := h
    simp only [addrOk, decide_eq_true_eq] at ha
    refine ⟨?_, ?_⟩
    · rw [List.append_assoc, List.pairwise_append]
      refine ⟨hp.filter _, ?_, ?_⟩
      · rw [List.pairwise_append]
        refine ⟨cellsFrom_pairwise _ _, hp.filter _, fun c hc d hd => ?_⟩
        have h1 := cellsFrom_bounds _ _ _ hc
        have h2 := (List.mem_filter.mp hd).2
        simp only [decide_eq_true_eq] at h2
        omega
      · intro c hc d hd
        have h1 := (List.mem_filter.mp hc).2
        simp only [decide_eq_true_eq] at h1
        rcases List.mem_append.mp hd with hd | hd
        · have := cellsFrom_bounds _ _ _ hd; omega
        · have h2 := (List.mem_filter.mp hd).2
          simp only [decide_eq_true_eq] at h2
          omega
    · intro c hc
      rcases List.mem_append.mp hc with hc | hc
      · rcases List.mem_append.mp hc with hc | hc
        · exact hb c (List.mem_filter.mp hc).1
        · have := cellsFrom_bounds _ _ _ hc; omega
      · exact hb c (List.mem_filter.mp hc).1

theorem wf_nil : Memory.wf [] = true := rfl

end Sys2Proof.Machine
end

