-- ==== Sys2Proof/Laws/State.lean ====
section
/-! SUPPORT. One lemma per field of State for each shared update of Machine/Ops.lean, so that no proof unfolds a record update. -/

namespace Sys2Proof.Machine

/-! ### log -/

@[simp] theorem log_cfg (es : List Event) (s : State) : (log es s).cfg = s.cfg := rfl
@[simp] theorem log_program (es : List Event) (s : State) : (log es s).program = s.program := rfl
@[simp] theorem log_poll (es : List Event) (s : State) : (log es s).poll = s.poll := rfl
@[simp] theorem log_port (es : List Event) (s : State) : (log es s).port = s.port := rfl
@[simp] theorem log_cd (es : List Event) (s : State) : (log es s).cd = s.cd := rfl
@[simp] theorem log_cw (es : List Event) (s : State) : (log es s).cw = s.cw := rfl
@[simp] theorem log_cpc (es : List Event) (s : State) : (log es s).cpc = s.cpc := rfl
@[simp] theorem log_client (es : List Event) (s : State) : (log es s).client = s.client := rfl
@[simp] theorem log_cresult (es : List Event) (s : State) : (log es s).cresult = s.cresult := rfl
@[simp] theorem log_cerr (es : List Event) (s : State) : (log es s).cerr = s.cerr := rfl
@[simp] theorem log_mem (es : List Event) (s : State) : (log es s).mem = s.mem := rfl
@[simp] theorem log_fault (es : List Event) (s : State) : (log es s).fault = s.fault := rfl
@[simp] theorem log_refused (es : List Event) (s : State) : (log es s).refused = s.refused := rfl
@[simp] theorem log_history (es : List Event) (s : State) : (log es s).history = s.history ++ es := rfl
@[simp] theorem log_draws (es : List Event) (s : State) : (log es s).draws = s.draws := rfl

/-! ### raise -/

@[simp] theorem raise_cfg (f : Fault) (s : State) : (raise f s).cfg = s.cfg := rfl
@[simp] theorem raise_program (f : Fault) (s : State) : (raise f s).program = s.program := rfl
@[simp] theorem raise_poll (f : Fault) (s : State) : (raise f s).poll = s.poll := rfl
@[simp] theorem raise_port (f : Fault) (s : State) : (raise f s).port = s.port := rfl
@[simp] theorem raise_cd (f : Fault) (s : State) : (raise f s).cd = s.cd := rfl
@[simp] theorem raise_cw (f : Fault) (s : State) : (raise f s).cw = s.cw := rfl
@[simp] theorem raise_cpc (f : Fault) (s : State) : (raise f s).cpc = s.cpc := rfl
@[simp] theorem raise_client (f : Fault) (s : State) : (raise f s).client = s.client := rfl
@[simp] theorem raise_cresult (f : Fault) (s : State) : (raise f s).cresult = s.cresult := rfl
@[simp] theorem raise_cerr (f : Fault) (s : State) : (raise f s).cerr = s.cerr := rfl
@[simp] theorem raise_mem (f : Fault) (s : State) : (raise f s).mem = s.mem := rfl
@[simp] theorem raise_fault (f : Fault) (s : State) : (raise f s).fault = some f := rfl
@[simp] theorem raise_refused (f : Fault) (s : State) : (raise f s).refused = s.refused := rfl
@[simp] theorem raise_history (f : Fault) (s : State) : (raise f s).history = s.history ++ [.fault f] := rfl
@[simp] theorem raise_draws (f : Fault) (s : State) : (raise f s).draws = s.draws := rfl

/-! ### refuseWrite -/

@[simp] theorem refuseWrite_cfg (o : Owner) (img : Image) (s : State) : (refuseWrite o img s).cfg = s.cfg := rfl
@[simp] theorem refuseWrite_program (o : Owner) (img : Image) (s : State) : (refuseWrite o img s).program = s.program := rfl
@[simp] theorem refuseWrite_poll (o : Owner) (img : Image) (s : State) : (refuseWrite o img s).poll = s.poll := rfl
@[simp] theorem refuseWrite_port (o : Owner) (img : Image) (s : State) : (refuseWrite o img s).port = s.port := rfl
@[simp] theorem refuseWrite_cd (o : Owner) (img : Image) (s : State) : (refuseWrite o img s).cd = s.cd := rfl
@[simp] theorem refuseWrite_cw (o : Owner) (img : Image) (s : State) : (refuseWrite o img s).cw = s.cw := rfl
@[simp] theorem refuseWrite_cpc (o : Owner) (img : Image) (s : State) : (refuseWrite o img s).cpc = s.cpc := rfl
@[simp] theorem refuseWrite_client (o : Owner) (img : Image) (s : State) : (refuseWrite o img s).client = s.client := rfl
@[simp] theorem refuseWrite_cresult (o : Owner) (img : Image) (s : State) : (refuseWrite o img s).cresult = s.cresult := rfl
@[simp] theorem refuseWrite_cerr (o : Owner) (img : Image) (s : State) : (refuseWrite o img s).cerr = s.cerr := rfl
@[simp] theorem refuseWrite_mem (o : Owner) (img : Image) (s : State) : (refuseWrite o img s).mem = s.mem := rfl
@[simp] theorem refuseWrite_fault (o : Owner) (img : Image) (s : State) : (refuseWrite o img s).fault = s.fault := rfl
@[simp] theorem refuseWrite_refused (o : Owner) (img : Image) (s : State) : (refuseWrite o img s).refused = some (.writePathRefused o) := rfl
@[simp] theorem refuseWrite_history (o : Owner) (img : Image) (s : State) : (refuseWrite o img s).history = s.history ++ [.xferReq o img] := rfl
@[simp] theorem refuseWrite_draws (o : Owner) (img : Image) (s : State) : (refuseWrite o img s).draws = s.draws := rfl

/-! ### writeCw -/

@[simp] theorem writeCw_cfg (i : Fin 32) (v : Word) (s : State) : (writeCw i v s).cfg = s.cfg := rfl
@[simp] theorem writeCw_program (i : Fin 32) (v : Word) (s : State) : (writeCw i v s).program = s.program := rfl
@[simp] theorem writeCw_poll (i : Fin 32) (v : Word) (s : State) : (writeCw i v s).poll = s.poll := rfl
@[simp] theorem writeCw_port (i : Fin 32) (v : Word) (s : State) : (writeCw i v s).port = s.port := rfl
@[simp] theorem writeCw_cd (i : Fin 32) (v : Word) (s : State) : (writeCw i v s).cd = s.cd := rfl
@[simp] theorem writeCw_cw (i : Fin 32) (v : Word) (s : State) : (writeCw i v s).cw = s.cw.set i (some v) := rfl
@[simp] theorem writeCw_cpc (i : Fin 32) (v : Word) (s : State) : (writeCw i v s).cpc = s.cpc := rfl
@[simp] theorem writeCw_client (i : Fin 32) (v : Word) (s : State) : (writeCw i v s).client = s.client := rfl
@[simp] theorem writeCw_cresult (i : Fin 32) (v : Word) (s : State) : (writeCw i v s).cresult = s.cresult := rfl
@[simp] theorem writeCw_cerr (i : Fin 32) (v : Word) (s : State) : (writeCw i v s).cerr = s.cerr := rfl
@[simp] theorem writeCw_mem (i : Fin 32) (v : Word) (s : State) : (writeCw i v s).mem = s.mem := rfl
@[simp] theorem writeCw_fault (i : Fin 32) (v : Word) (s : State) : (writeCw i v s).fault = s.fault := rfl
@[simp] theorem writeCw_refused (i : Fin 32) (v : Word) (s : State) : (writeCw i v s).refused = s.refused := rfl
@[simp] theorem writeCw_history (i : Fin 32) (v : Word) (s : State) : (writeCw i v s).history = s.history := rfl
@[simp] theorem writeCw_draws (i : Fin 32) (v : Word) (s : State) : (writeCw i v s).draws = s.draws := rfl

/-! ### writeCws -/

@[simp] theorem writeCws_cfg (k : Nat) (ws : List Word) (s : State) : (writeCws k ws s).cfg = s.cfg := rfl
@[simp] theorem writeCws_program (k : Nat) (ws : List Word) (s : State) : (writeCws k ws s).program = s.program := rfl
@[simp] theorem writeCws_poll (k : Nat) (ws : List Word) (s : State) : (writeCws k ws s).poll = s.poll := rfl
@[simp] theorem writeCws_port (k : Nat) (ws : List Word) (s : State) : (writeCws k ws s).port = s.port := rfl
@[simp] theorem writeCws_cd (k : Nat) (ws : List Word) (s : State) : (writeCws k ws s).cd = s.cd := rfl
@[simp] theorem writeCws_cw (k : Nat) (ws : List Word) (s : State) : (writeCws k ws s).cw = setCws s.cw k ws := rfl
@[simp] theorem writeCws_cpc (k : Nat) (ws : List Word) (s : State) : (writeCws k ws s).cpc = s.cpc := rfl
@[simp] theorem writeCws_client (k : Nat) (ws : List Word) (s : State) : (writeCws k ws s).client = s.client := rfl
@[simp] theorem writeCws_cresult (k : Nat) (ws : List Word) (s : State) : (writeCws k ws s).cresult = s.cresult := rfl
@[simp] theorem writeCws_cerr (k : Nat) (ws : List Word) (s : State) : (writeCws k ws s).cerr = s.cerr := rfl
@[simp] theorem writeCws_mem (k : Nat) (ws : List Word) (s : State) : (writeCws k ws s).mem = s.mem := rfl
@[simp] theorem writeCws_fault (k : Nat) (ws : List Word) (s : State) : (writeCws k ws s).fault = s.fault := rfl
@[simp] theorem writeCws_refused (k : Nat) (ws : List Word) (s : State) : (writeCws k ws s).refused = s.refused := rfl
@[simp] theorem writeCws_history (k : Nat) (ws : List Word) (s : State) : (writeCws k ws s).history = s.history := rfl
@[simp] theorem writeCws_draws (k : Nat) (ws : List Word) (s : State) : (writeCws k ws s).draws = s.draws := rfl

/-! ### writeCd -/

@[simp] theorem writeCd_cfg (i : Fin 16) (img : Image) (s : State) : (writeCd i img s).cfg = s.cfg := rfl
@[simp] theorem writeCd_program (i : Fin 16) (img : Image) (s : State) : (writeCd i img s).program = s.program := rfl
@[simp] theorem writeCd_poll (i : Fin 16) (img : Image) (s : State) : (writeCd i img s).poll = s.poll := rfl
@[simp] theorem writeCd_port (i : Fin 16) (img : Image) (s : State) : (writeCd i img s).port = s.port := rfl
@[simp] theorem writeCd_cd (i : Fin 16) (img : Image) (s : State) : (writeCd i img s).cd = s.cd.set i (some img) := rfl
@[simp] theorem writeCd_cw (i : Fin 16) (img : Image) (s : State) : (writeCd i img s).cw = s.cw := rfl
@[simp] theorem writeCd_cpc (i : Fin 16) (img : Image) (s : State) : (writeCd i img s).cpc = s.cpc := rfl
@[simp] theorem writeCd_client (i : Fin 16) (img : Image) (s : State) : (writeCd i img s).client = s.client := rfl
@[simp] theorem writeCd_cresult (i : Fin 16) (img : Image) (s : State) : (writeCd i img s).cresult = s.cresult := rfl
@[simp] theorem writeCd_cerr (i : Fin 16) (img : Image) (s : State) : (writeCd i img s).cerr = s.cerr := rfl
@[simp] theorem writeCd_mem (i : Fin 16) (img : Image) (s : State) : (writeCd i img s).mem = s.mem := rfl
@[simp] theorem writeCd_fault (i : Fin 16) (img : Image) (s : State) : (writeCd i img s).fault = s.fault := rfl
@[simp] theorem writeCd_refused (i : Fin 16) (img : Image) (s : State) : (writeCd i img s).refused = s.refused := rfl
@[simp] theorem writeCd_history (i : Fin 16) (img : Image) (s : State) : (writeCd i img s).history = s.history := rfl
@[simp] theorem writeCd_draws (i : Fin 16) (img : Image) (s : State) : (writeCd i img s).draws = s.draws := rfl

/-! ### advance -/

@[simp] theorem advance_cfg (n : Nat) (s : State) : (advance n s).cfg = s.cfg := rfl
@[simp] theorem advance_program (n : Nat) (s : State) : (advance n s).program = s.program := rfl
@[simp] theorem advance_poll (n : Nat) (s : State) : (advance n s).poll = s.poll := rfl
@[simp] theorem advance_port (n : Nat) (s : State) : (advance n s).port = s.port := rfl
@[simp] theorem advance_cd (n : Nat) (s : State) : (advance n s).cd = s.cd := rfl
@[simp] theorem advance_cw (n : Nat) (s : State) : (advance n s).cw = s.cw := rfl
@[simp] theorem advance_cpc (n : Nat) (s : State) : (advance n s).cpc = s.cpc + n := rfl
@[simp] theorem advance_client (n : Nat) (s : State) : (advance n s).client = s.client := rfl
@[simp] theorem advance_cresult (n : Nat) (s : State) : (advance n s).cresult = s.cresult := rfl
@[simp] theorem advance_cerr (n : Nat) (s : State) : (advance n s).cerr = s.cerr := rfl
@[simp] theorem advance_mem (n : Nat) (s : State) : (advance n s).mem = s.mem := rfl
@[simp] theorem advance_fault (n : Nat) (s : State) : (advance n s).fault = s.fault := rfl
@[simp] theorem advance_refused (n : Nat) (s : State) : (advance n s).refused = s.refused := rfl
@[simp] theorem advance_history (n : Nat) (s : State) : (advance n s).history = s.history := rfl
@[simp] theorem advance_draws (n : Nat) (s : State) : (advance n s).draws = s.draws := rfl

/-! ### writeMem -/

@[simp] theorem writeMem_cfg (a : Nat) (bs : List Byte) (s : State) : (writeMem a bs s).cfg = s.cfg := rfl
@[simp] theorem writeMem_program (a : Nat) (bs : List Byte) (s : State) : (writeMem a bs s).program = s.program := rfl
@[simp] theorem writeMem_poll (a : Nat) (bs : List Byte) (s : State) : (writeMem a bs s).poll = s.poll := rfl
@[simp] theorem writeMem_port (a : Nat) (bs : List Byte) (s : State) : (writeMem a bs s).port = s.port := rfl
@[simp] theorem writeMem_cd (a : Nat) (bs : List Byte) (s : State) : (writeMem a bs s).cd = s.cd := rfl
@[simp] theorem writeMem_cw (a : Nat) (bs : List Byte) (s : State) : (writeMem a bs s).cw = s.cw := rfl
@[simp] theorem writeMem_cpc (a : Nat) (bs : List Byte) (s : State) : (writeMem a bs s).cpc = s.cpc := rfl
@[simp] theorem writeMem_client (a : Nat) (bs : List Byte) (s : State) : (writeMem a bs s).client = s.client := rfl
@[simp] theorem writeMem_cresult (a : Nat) (bs : List Byte) (s : State) : (writeMem a bs s).cresult = s.cresult := rfl
@[simp] theorem writeMem_cerr (a : Nat) (bs : List Byte) (s : State) : (writeMem a bs s).cerr = s.cerr := rfl
@[simp] theorem writeMem_mem (a : Nat) (bs : List Byte) (s : State) : (writeMem a bs s).mem = memStore s.mem a bs := rfl
@[simp] theorem writeMem_fault (a : Nat) (bs : List Byte) (s : State) : (writeMem a bs s).fault = s.fault := rfl
@[simp] theorem writeMem_refused (a : Nat) (bs : List Byte) (s : State) : (writeMem a bs s).refused = s.refused := rfl
@[simp] theorem writeMem_history (a : Nat) (bs : List Byte) (s : State) : (writeMem a bs s).history = s.history := rfl
@[simp] theorem writeMem_draws (a : Nat) (bs : List Byte) (s : State) : (writeMem a bs s).draws = s.draws := rfl

/-- The words written into CW stand at their indices, and every other variable is as it was (40 R102). -/
theorem getElem?_setCws (ws : List Word) : ∀ (cw : Vector (Option Word) 32) (k j : Nat), k + ws.length ≤ 32 →
    (setCws cw k ws)[j]? = if k ≤ j ∧ j < k + ws.length then ws[j - k]?.map some else cw[j]? := by
  induction ws with
  | nil => intro cw k j _; rw [if_neg (by simp only [List.length_nil]; omega)]; rfl
  | cons w ws ih =>
    intro cw k j h
    simp only [List.length_cons] at h ⊢
    rw [setCws, ih _ _ _ (by omega)]
    by_cases hj : k = j
    · subst hj
      rw [if_neg (by omega), if_pos (by omega), Nat.sub_self]
      simp [show k < 32 by omega]
    · by_cases h2 : k ≤ j ∧ j < k + (ws.length + 1)
      · rw [if_pos (by omega), if_pos h2]
        obtain ⟨m, hm⟩ : ∃ m, j - k = m + 1 := ⟨j - k - 1, by omega⟩
        rw [hm, show j - (k + 1) = m by omega]; rfl
      · rw [if_neg (by omega), if_neg h2, Vector.getElem?_setIfInBounds, if_neg hj]

/-! ### reset -/

@[simp] theorem resetWith_cfg (c : Params) : (resetWith c).cfg = c := rfl
@[simp] theorem resetWith_program (c : Params) : (resetWith c).program = [] := rfl
@[simp] theorem resetWith_poll (c : Params) : (resetWith c).poll = pollReset := rfl
@[simp] theorem resetWith_port (c : Params) : (resetWith c).port = ⟨none, true⟩ := rfl
@[simp] theorem resetWith_cd (c : Params) : (resetWith c).cd = Vector.replicate 16 none := rfl
@[simp] theorem resetWith_cw (c : Params) : (resetWith c).cw = Vector.replicate 32 none := rfl
@[simp] theorem resetWith_cpc (c : Params) : (resetWith c).cpc = 0 := rfl
@[simp] theorem resetWith_client (c : Params) : (resetWith c).client = .ready := rfl
@[simp] theorem resetWith_cresult (c : Params) : (resetWith c).cresult = .none := rfl
@[simp] theorem resetWith_cerr (c : Params) : (resetWith c).cerr = none := rfl
@[simp] theorem resetWith_mem (c : Params) : (resetWith c).mem = [] := rfl
@[simp] theorem resetWith_fault (c : Params) : (resetWith c).fault = none := rfl
@[simp] theorem resetWith_refused (c : Params) : (resetWith c).refused = none := rfl
@[simp] theorem resetWith_history (c : Params) : (resetWith c).history = [] := rfl
@[simp] theorem resetWith_draws (c : Params) : (resetWith c).draws = 0 := rfl

/-! ### The registers of POLL's updates -/

@[simp] theorem pollStart_pstate (r : PollRegs) (a : Word) : (pollStart r a).pstate = .checking := rfl
@[simp] theorem pollStart_phase (r : PollRegs) (a : Word) : (pollStart r a).phase = .issue := rfl
@[simp] theorem pollStart_attempts (r : PollRegs) (a : Word) : (pollStart r a).attempts = 0 := rfl
@[simp] theorem pollStart_arg (r : PollRegs) (a : Word) : (pollStart r a).arg = some a := rfl
@[simp] theorem pollStart_lastResp (r : PollRegs) (a : Word) : (pollStart r a).lastResp = none := rfl
@[simp] theorem pollStart_result (r : PollRegs) (a : Word) : (pollStart r a).result = .none := rfl
@[simp] theorem pollStart_errcode (r : PollRegs) (a : Word) : (pollStart r a).errcode = none := rfl
@[simp] theorem pollStart_pdesc (r : PollRegs) (a : Word) : (pollStart r a).pdesc = r.pdesc := rfl

@[simp] theorem pollIssued_pstate (c : Params) (r : PollRegs) (a : Word) : (pollIssued c r a).pstate = r.pstate := rfl
@[simp] theorem pollIssued_phase (c : Params) (r : PollRegs) (a : Word) : (pollIssued c r a).phase = .waitRsp := rfl
@[simp] theorem pollIssued_attempts (c : Params) (r : PollRegs) (a : Word) : (pollIssued c r a).attempts = r.attempts + 1 := rfl
@[simp] theorem pollIssued_arg (c : Params) (r : PollRegs) (a : Word) : (pollIssued c r a).arg = r.arg := rfl
@[simp] theorem pollIssued_lastResp (c : Params) (r : PollRegs) (a : Word) : (pollIssued c r a).lastResp = r.lastResp := rfl
@[simp] theorem pollIssued_result (c : Params) (r : PollRegs) (a : Word) : (pollIssued c r a).result = r.result := rfl
@[simp] theorem pollIssued_errcode (c : Params) (r : PollRegs) (a : Word) : (pollIssued c r a).errcode = r.errcode := rfl
@[simp] theorem pollIssued_pdesc (c : Params) (r : PollRegs) (a : Word) : (pollIssued c r a).pdesc = some (sendStatusImg c a) := rfl

@[simp] theorem pollEnd_pstate (r : PollRegs) (p : PState) (res : OpResult) : (pollEnd r p res).pstate = p := rfl
@[simp] theorem pollEnd_phase (r : PollRegs) (p : PState) (res : OpResult) : (pollEnd r p res).phase = .idle := rfl
@[simp] theorem pollEnd_attempts (r : PollRegs) (p : PState) (res : OpResult) : (pollEnd r p res).attempts = r.attempts := rfl
@[simp] theorem pollEnd_arg (r : PollRegs) (p : PState) (res : OpResult) : (pollEnd r p res).arg = r.arg := rfl
@[simp] theorem pollEnd_lastResp (r : PollRegs) (p : PState) (res : OpResult) : (pollEnd r p res).lastResp = r.lastResp := rfl
@[simp] theorem pollEnd_result (r : PollRegs) (p : PState) (res : OpResult) : (pollEnd r p res).result = res := rfl
@[simp] theorem pollEnd_errcode (r : PollRegs) (p : PState) (res : OpResult) : (pollEnd r p res).errcode = r.errcode := rfl
@[simp] theorem pollEnd_pdesc (r : PollRegs) (p : PState) (res : OpResult) : (pollEnd r p res).pdesc = r.pdesc := rfl

@[simp] theorem pollAnswered_pstate (c : Params) (r : PollRegs) (img : Image) : (pollAnswered c r img).pstate = r.pstate := rfl
@[simp] theorem pollAnswered_phase (c : Params) (r : PollRegs) (img : Image) : (pollAnswered c r img).phase = r.phase := rfl
@[simp] theorem pollAnswered_attempts (c : Params) (r : PollRegs) (img : Image) : (pollAnswered c r img).attempts = r.attempts := rfl
@[simp] theorem pollAnswered_arg (c : Params) (r : PollRegs) (img : Image) : (pollAnswered c r img).arg = r.arg := rfl
@[simp] theorem pollAnswered_lastResp (c : Params) (r : PollRegs) (img : Image) : (pollAnswered c r img).lastResp = some (respOf c img).r0 := rfl
@[simp] theorem pollAnswered_result (c : Params) (r : PollRegs) (img : Image) : (pollAnswered c r img).result = r.result := rfl
@[simp] theorem pollAnswered_errcode (c : Params) (r : PollRegs) (img : Image) : (pollAnswered c r img).errcode = r.errcode := rfl
@[simp] theorem pollAnswered_pdesc (c : Params) (r : PollRegs) (img : Image) : (pollAnswered c r img).pdesc = some img := rfl

end Sys2Proof.Machine
end

