-- ==== Sys2Proof/Laws/Port.lean ====
section
/-! SUPPORT. What submitting a descriptor and answering it can do (43 R200 to R209). -/

namespace Sys2Proof.Machine

/-- The checks of admission all pass (43 R200). -/
structure Admissible (c : Params) (p : PortState) (img : Image) : Prop where
  free : p.call = none
  read : writeFlagOf c img = 0
  aligned : blocksOf c img ≠ 0 → (ptrOf c img).toNat % 8 = 0
  inside : blocksOf c img ≠ 0 → inBuffer c (ptrOf c img).toNat (transferLen c img) = true
  clear : opcodeOf c img ≠ Config.opcSendStatus → p.busyHazard = false

theorem admit_of_admissible (c : Params) (p : PortState) (o : Owner) (img : Image) (h : Admissible c p img) :
    admission c p o img = .admitted { p with call := some ⟨o, img⟩ } (traceIssue c img) := by
  obtain ⟨h1, h2, h3, h4, h5⟩ := h
  unfold admission
  have e1 : ¬ (p.call.isSome = true) := by simp [h1]
  have e2 : ¬ (writeFlagOf c img ≠ 0) := by simp [h2]
  have e3 : ¬ (blocksOf c img ≠ 0 ∧ (ptrOf c img).toNat % 8 ≠ 0) := fun h => h.2 (h3 h.1)
  have e4 : ¬ (blocksOf c img ≠ 0 ∧ inBuffer c (ptrOf c img).toNat (transferLen c img) = false) := by
    intro h; have := h4 h.1; simp [this] at h
  have e5 : ¬ (opcodeOf c img ≠ Config.opcSendStatus ∧ p.busyHazard = true) := by
    intro h; have := h5 h.1; simp [this] at h
  rw [if_neg e1, if_neg e2, if_neg e3, if_neg e4, if_neg e5]

/-- Everything admission can answer. -/
theorem admit_cases (c : Params) (p : PortState) (o : Owner) (img : Image) :
    (∃ f, admission c p o img = .fault f) ∨ (admission c p o img = .refused ∧ p.call = none ∧ writeFlagOf c img ≠ 0) ∨
      (Admissible c p img ∧ admission c p o img = .admitted { p with call := some ⟨o, img⟩ } (traceIssue c img)) := by
  by_cases e1 : p.call.isSome = true
  · exact .inl ⟨_, by rw [admission, if_pos e1]⟩
  have h1 : p.call = none := by simpa using e1
  by_cases e2 : writeFlagOf c img ≠ 0
  · exact .inr (.inl ⟨by rw [admission, if_neg e1, if_pos e2], h1, e2⟩)
  by_cases e3 : blocksOf c img ≠ 0 ∧ (ptrOf c img).toNat % 8 ≠ 0
  · exact .inl ⟨_, by rw [admission, if_neg e1, if_neg e2, if_pos e3]⟩
  by_cases e4 : blocksOf c img ≠ 0 ∧ inBuffer c (ptrOf c img).toNat (transferLen c img) = false
  · exact .inl ⟨_, by rw [admission, if_neg e1, if_neg e2, if_neg e3, if_pos e4]⟩
  by_cases e5 : opcodeOf c img ≠ Config.opcSendStatus ∧ p.busyHazard = true
  · exact .inl ⟨_, by rw [admission, if_neg e1, if_neg e2, if_neg e3, if_neg e4, if_pos e5]⟩
  have ha : Admissible c p img := by
    refine ⟨h1, by simpa using e2, fun hb => ?_, fun hb => ?_, fun ho => ?_⟩
    · by_contra hc; exact e3 ⟨hb, hc⟩
    · by_contra hc; exact e4 ⟨hb, by simpa using hc⟩
    · by_contra hc; exact e5 ⟨ho, by simpa using hc⟩
  exact .inr (.inr ⟨ha, admit_of_admissible c p o img ha⟩)

/-- The state after an admitted request, before the requester's own changes. -/
def admittedState (o : Owner) (img : Image) (s : State) : State :=
  log (.xferReq o img :: traceIssue s.cfg img) { s with port := { s.port with call := some ⟨o, img⟩ } }

/-- An admissible descriptor is admitted. -/
theorem submit_admitted (o : Owner) (img : Image) (k : State → State) (s : State) (h : Admissible s.cfg s.port img) :
    submit o img k s = k (admittedState o img s) := by
  rw [submit, admit_of_admissible _ _ _ _ h]; rfl

/-- Everything a submission can do. -/
theorem submit_cases (o : Owner) (img : Image) (k : State → State) (s : State) :
    (∃ f, submit o img k s = raise f s) ∨
      (submit o img k s = refuseWrite o img s ∧ s.port.call = none ∧ writeFlagOf s.cfg img ≠ 0) ∨
      (Admissible s.cfg s.port img ∧ submit o img k s = k (admittedState o img s)) := by
  rcases admit_cases s.cfg s.port o img with ⟨f, hf⟩ | ⟨hr, h⟩ | ⟨ha, _⟩
  · exact .inl ⟨f, by rw [submit, hf]⟩
  · exact .inr (.inl ⟨by rw [submit, hr], h⟩)
  · exact .inr (.inr ⟨ha, submit_admitted o img k s ha⟩)

/-- A status command of the block has no data phase, so it is admitted whenever no call is outstanding (42 R166). -/
theorem admissible_sendStatus (c : Params) (p : PortState) (arg : Word) (h : p.call = none) :
    Admissible c p (sendStatusImg c arg) := by
  obtain ⟨ho, hw, hb, -, -⟩ := sendStatusImg_fields c arg
  exact ⟨h, hw, fun h => absurd hb h, fun h => absurd hb h, fun h => absurd ho h⟩

/-- The CMD8 of a fetch is aligned and in the buffer, so it is admitted whenever no call is outstanding and BUSY_HAZARD is 0
(44 R233). -/
theorem admissible_sendExtCsd (c : Params) (p : PortState) (ha : c.bufAddr.toNat % 8 = 0) (h : p.call = none)
    (hb : p.busyHazard = false) : Admissible c p (sendExtCsdImg c c.bufAddr) := by
  obtain ⟨-, hw, hn, hz, hp, -, -⟩ := sendExtCsdImg_fields c c.bufAddr
  refine ⟨h, hw, fun _ => by rw [hp, ha], fun _ => ?_, fun _ => hb⟩
  simp [inBuffer, transferLen, hp, hn, hz, Config.extcsdBytes]

/-- Without a data phase nothing is transferred. -/
theorem transferBytes_nil (c : Params) (img : Image) (a : Answer) (h : blocksOf c img = 0) : transferBytes c img a = [] := by
  rw [transferBytes, if_pos h]

theorem transferBytes_length (c : Params) (img : Image) (a : Answer) :
    (transferBytes c img a).length = if blocksOf c img = 0 then 0 else transferLen c img := by
  rw [transferBytes]; split <;> simp

@[simp] theorem answerPort_cfg (img : Image) (a : Answer) (s : State) : (answerPort img a s).cfg = s.cfg := rfl
@[simp] theorem answerPort_program (img : Image) (a : Answer) (s : State) : (answerPort img a s).program = s.program := rfl
@[simp] theorem answerPort_poll (img : Image) (a : Answer) (s : State) : (answerPort img a s).poll = s.poll := rfl
@[simp] theorem answerPort_port (img : Image) (a : Answer) (s : State) :
    (answerPort img a s).port = ⟨none, busyAfter s.cfg img s.port.busyHazard⟩ := rfl
@[simp] theorem answerPort_cd (img : Image) (a : Answer) (s : State) : (answerPort img a s).cd = s.cd := rfl
@[simp] theorem answerPort_cw (img : Image) (a : Answer) (s : State) : (answerPort img a s).cw = s.cw := rfl
@[simp] theorem answerPort_cpc (img : Image) (a : Answer) (s : State) : (answerPort img a s).cpc = s.cpc := rfl
@[simp] theorem answerPort_client (img : Image) (a : Answer) (s : State) : (answerPort img a s).client = s.client := rfl
@[simp] theorem answerPort_cresult (img : Image) (a : Answer) (s : State) : (answerPort img a s).cresult = s.cresult := rfl
@[simp] theorem answerPort_cerr (img : Image) (a : Answer) (s : State) : (answerPort img a s).cerr = s.cerr := rfl
@[simp] theorem answerPort_mem (img : Image) (a : Answer) (s : State) :
    (answerPort img a s).mem = memStore s.mem (ptrOf s.cfg img).toNat (transferBytes s.cfg img a) := rfl
@[simp] theorem answerPort_fault (img : Image) (a : Answer) (s : State) : (answerPort img a s).fault = s.fault := rfl
@[simp] theorem answerPort_refused (img : Image) (a : Answer) (s : State) : (answerPort img a s).refused = s.refused := rfl
@[simp] theorem answerPort_history (img : Image) (a : Answer) (s : State) :
    (answerPort img a s).history =
      s.history ++ (answerEvent (setResp s.cfg img a.resp) a :: traceResult s.cfg a) := rfl
@[simp] theorem answerPort_draws (img : Image) (a : Answer) (s : State) : (answerPort img a s).draws = s.draws := rfl

end Sys2Proof.Machine
end

