-- ==== Sys2Proof/Laws/Poll.lean ====
section
/-! SUPPORT. What POLL's operations and the deliveries to the client can do (42 R161 to R173; 44 R226, R230 to R235). -/

namespace Sys2Proof.Machine

/-! ### Ending a fetch -/

@[simp] theorem finishFetch_cfg (dst : Fin 32) (r : OpResult) (s : State) : (finishFetch dst r s).cfg = s.cfg := rfl
@[simp] theorem finishFetch_program (dst : Fin 32) (r : OpResult) (s : State) : (finishFetch dst r s).program = s.program := rfl
@[simp] theorem finishFetch_poll (dst : Fin 32) (r : OpResult) (s : State) : (finishFetch dst r s).poll = s.poll := rfl
@[simp] theorem finishFetch_port (dst : Fin 32) (r : OpResult) (s : State) : (finishFetch dst r s).port = s.port := rfl
@[simp] theorem finishFetch_cd (dst : Fin 32) (r : OpResult) (s : State) : (finishFetch dst r s).cd = s.cd := rfl
@[simp] theorem finishFetch_cw (dst : Fin 32) (r : OpResult) (s : State) : (finishFetch dst r s).cw = s.cw.set dst (some (resultCode r)) := rfl
@[simp] theorem finishFetch_cpc (dst : Fin 32) (r : OpResult) (s : State) : (finishFetch dst r s).cpc = s.cpc + 1 := rfl
@[simp] theorem finishFetch_client (dst : Fin 32) (r : OpResult) (s : State) : (finishFetch dst r s).client = .ready := rfl
@[simp] theorem finishFetch_cresult (dst : Fin 32) (r : OpResult) (s : State) : (finishFetch dst r s).cresult = r := rfl
@[simp] theorem finishFetch_cerr (dst : Fin 32) (r : OpResult) (s : State) : (finishFetch dst r s).cerr = s.cerr := rfl
@[simp] theorem finishFetch_mem (dst : Fin 32) (r : OpResult) (s : State) : (finishFetch dst r s).mem = s.mem := rfl
@[simp] theorem finishFetch_fault (dst : Fin 32) (r : OpResult) (s : State) : (finishFetch dst r s).fault = s.fault := rfl
@[simp] theorem finishFetch_refused (dst : Fin 32) (r : OpResult) (s : State) : (finishFetch dst r s).refused = s.refused := rfl
@[simp] theorem finishFetch_history (dst : Fin 32) (r : OpResult) (s : State) : (finishFetch dst r s).history = s.history := rfl
@[simp] theorem finishFetch_draws (dst : Fin 32) (r : OpResult) (s : State) : (finishFetch dst r s).draws = s.draws := rfl

/-! ### Delivering a Done -/

/-- Everything the delivery of a Done can do. -/
theorem deliverDone_cases (r : OpResult) (code : Option Word) (s : State) :
    (∃ dst, s.client = .awaitDone dst ∧
        deliverDone r code s = advance 2 (writeCw dst (resultCode r) { s with client := .ready })) ∨
      (∃ dst, s.client = .fetching dst .two true ∧ r = .ok ∧
        deliverDone r code s = { s with client := .fetching dst .two false }) ∨
      (∃ dst, s.client = .fetching dst .four true ∧ r = .ok ∧ deliverDone r code s = finishFetch dst .ok s) ∨
      (∃ dst k, s.client = .fetching dst k true ∧ (k = .two ∨ k = .four) ∧ r ≠ .ok ∧
        deliverDone r code s = finishFetch dst r { s with cerr := code }) ∨
      (awaitsDone s.client = false ∧ deliverDone r code s = s) := by
  unfold deliverDone
  split <;> rename_i h <;> simp only [h, awaitsDone]
  · exact .inl ⟨_, rfl, rfl⟩
  · by_cases hr : r = .ok
    · exact .inr (.inl ⟨_, rfl, hr, by rw [if_pos hr]⟩)
    · exact .inr (.inr (.inr (.inl ⟨_, _, rfl, .inl rfl, hr, by rw [if_neg hr]⟩)))
  · by_cases hr : r = .ok
    · exact .inr (.inr (.inl ⟨_, rfl, hr, by rw [if_pos hr, hr]⟩))
    · exact .inr (.inr (.inr (.inl ⟨_, _, rfl, .inr rfl, hr, by rw [if_neg hr]⟩)))
  all_goals exact .inr (.inr (.inr (.inr ⟨trivial, trivial⟩)))

/-- A Done reaches the client alone, and in it CW, CPC, CRESULT, CERR and its place. -/
theorem deliverDone_frame (r : OpResult) (code : Option Word) (s : State) :
    (deliverDone r code s).cfg = s.cfg ∧ (deliverDone r code s).program = s.program ∧
      (deliverDone r code s).poll = s.poll ∧ (deliverDone r code s).port = s.port ∧ (deliverDone r code s).cd = s.cd ∧
      (deliverDone r code s).mem = s.mem ∧ (deliverDone r code s).fault = s.fault ∧
      (deliverDone r code s).refused = s.refused ∧ (deliverDone r code s).history = s.history ∧
      (deliverDone r code s).draws = s.draws := by
  rcases deliverDone_cases r code s with ⟨_, _, h⟩ | ⟨_, _, _, h⟩ | ⟨_, _, _, h⟩ | ⟨_, _, _, _, _, h⟩ | ⟨_, h⟩ <;> rw [h] <;>
    exact ⟨rfl, rfl, rfl, rfl, rfl, rfl, rfl, rfl, rfl, rfl⟩
@[simp] theorem deliverDone_cfg (r : OpResult) (code : Option Word) (s : State) : (deliverDone r code s).cfg = s.cfg :=
  (deliverDone_frame r code s).1
@[simp] theorem deliverDone_program (r : OpResult) (code : Option Word) (s : State) : (deliverDone r code s).program = s.program :=
  (deliverDone_frame r code s).2.1
@[simp] theorem deliverDone_poll (r : OpResult) (code : Option Word) (s : State) : (deliverDone r code s).poll = s.poll :=
  (deliverDone_frame r code s).2.2.1
@[simp] theorem deliverDone_port (r : OpResult) (code : Option Word) (s : State) : (deliverDone r code s).port = s.port :=
  (deliverDone_frame r code s).2.2.2.1
@[simp] theorem deliverDone_cd (r : OpResult) (code : Option Word) (s : State) : (deliverDone r code s).cd = s.cd :=
  (deliverDone_frame r code s).2.2.2.2.1
@[simp] theorem deliverDone_mem (r : OpResult) (code : Option Word) (s : State) : (deliverDone r code s).mem = s.mem :=
  (deliverDone_frame r code s).2.2.2.2.2.1
@[simp] theorem deliverDone_fault (r : OpResult) (code : Option Word) (s : State) : (deliverDone r code s).fault = s.fault :=
  (deliverDone_frame r code s).2.2.2.2.2.2.1
@[simp] theorem deliverDone_refused (r : OpResult) (code : Option Word) (s : State) : (deliverDone r code s).refused = s.refused :=
  (deliverDone_frame r code s).2.2.2.2.2.2.2.1
@[simp] theorem deliverDone_history (r : OpResult) (code : Option Word) (s : State) : (deliverDone r code s).history = s.history :=
  (deliverDone_frame r code s).2.2.2.2.2.2.2.2.1
@[simp] theorem deliverDone_draws (r : OpResult) (code : Option Word) (s : State) : (deliverDone r code s).draws = s.draws :=
  (deliverDone_frame r code s).2.2.2.2.2.2.2.2.2

/-! ### Delivering an answer to the client -/

/-- Everything the delivery of an answer to the client can do. -/
theorem clientTakes_cases (img : Image) (err : Option Word) (s : State) :
    (∃ dst src, s.client = .awaitXfer dst src ∧
        clientTakes img err s = advance 1 (writeCw dst (err.getD 0) (writeCd src img { s with client := .ready }))) ∨
      (∃ dst, s.client = .fetching dst .three true ∧ err = none ∧
        clientTakes img err s = { s with client := .fetching dst .three false }) ∨
      (∃ dst code, s.client = .fetching dst .three true ∧ err = some code ∧
        clientTakes img err s = finishFetch dst .transport { s with cerr := some code }) ∨
      (awaitsAnswer s.client = false ∧ clientTakes img err s = s) := by
  unfold clientTakes
  split <;> rename_i h <;> simp only [h, awaitsAnswer]
  · exact .inl ⟨_, _, rfl, rfl⟩
  · cases err with
    | none => exact .inr (.inl ⟨_, rfl, rfl, rfl⟩)
    | some code => exact .inr (.inr (.inl ⟨_, code, rfl, rfl, rfl⟩))
  all_goals exact .inr (.inr (.inr ⟨trivial, trivial⟩))

/-- An answer to the client reaches the client alone. -/
theorem clientTakes_frame (img : Image) (err : Option Word) (s : State) :
    (clientTakes img err s).cfg = s.cfg ∧ (clientTakes img err s).program = s.program ∧
      (clientTakes img err s).poll = s.poll ∧ (clientTakes img err s).port = s.port ∧
      (clientTakes img err s).mem = s.mem ∧ (clientTakes img err s).fault = s.fault ∧
      (clientTakes img err s).refused = s.refused ∧ (clientTakes img err s).history = s.history ∧
      (clientTakes img err s).draws = s.draws := by
  rcases clientTakes_cases img err s with ⟨_, _, _, h⟩ | ⟨_, _, _, h⟩ | ⟨_, _, _, _, h⟩ | ⟨_, h⟩ <;> rw [h] <;>
    exact ⟨rfl, rfl, rfl, rfl, rfl, rfl, rfl, rfl, rfl⟩
@[simp] theorem clientTakes_cfg (img : Image) (err : Option Word) (s : State) : (clientTakes img err s).cfg = s.cfg :=
  (clientTakes_frame img err s).1
@[simp] theorem clientTakes_program (img : Image) (err : Option Word) (s : State) : (clientTakes img err s).program = s.program :=
  (clientTakes_frame img err s).2.1
@[simp] theorem clientTakes_poll (img : Image) (err : Option Word) (s : State) : (clientTakes img err s).poll = s.poll :=
  (clientTakes_frame img err s).2.2.1
@[simp] theorem clientTakes_port (img : Image) (err : Option Word) (s : State) : (clientTakes img err s).port = s.port :=
  (clientTakes_frame img err s).2.2.2.1
@[simp] theorem clientTakes_mem (img : Image) (err : Option Word) (s : State) : (clientTakes img err s).mem = s.mem :=
  (clientTakes_frame img err s).2.2.2.2.1
@[simp] theorem clientTakes_fault (img : Image) (err : Option Word) (s : State) : (clientTakes img err s).fault = s.fault :=
  (clientTakes_frame img err s).2.2.2.2.2.1
@[simp] theorem clientTakes_refused (img : Image) (err : Option Word) (s : State) : (clientTakes img err s).refused = s.refused :=
  (clientTakes_frame img err s).2.2.2.2.2.2.1
@[simp] theorem clientTakes_history (img : Image) (err : Option Word) (s : State) : (clientTakes img err s).history = s.history :=
  (clientTakes_frame img err s).2.2.2.2.2.2.2.1
@[simp] theorem clientTakes_draws (img : Image) (err : Option Word) (s : State) : (clientTakes img err s).draws = s.draws :=
  (clientTakes_frame img err s).2.2.2.2.2.2.2.2

/-! ### Applying a transition -/

/-- The state a transition leaves before its Done is delivered. -/
def pollState (out : PollOut) (s : State) : State :=
  log out.events { s with poll := out.regs, port := { s.port with busyHazard := out.busy } }

@[simp] theorem pollState_cfg (out : PollOut) (s : State) : (pollState out s).cfg = s.cfg := rfl
@[simp] theorem pollState_program (out : PollOut) (s : State) : (pollState out s).program = s.program := rfl
@[simp] theorem pollState_poll (out : PollOut) (s : State) : (pollState out s).poll = out.regs := rfl
@[simp] theorem pollState_port (out : PollOut) (s : State) : (pollState out s).port = { s.port with busyHazard := out.busy } := rfl
@[simp] theorem pollState_cd (out : PollOut) (s : State) : (pollState out s).cd = s.cd := rfl
@[simp] theorem pollState_cw (out : PollOut) (s : State) : (pollState out s).cw = s.cw := rfl
@[simp] theorem pollState_cpc (out : PollOut) (s : State) : (pollState out s).cpc = s.cpc := rfl
@[simp] theorem pollState_client (out : PollOut) (s : State) : (pollState out s).client = s.client := rfl
@[simp] theorem pollState_cresult (out : PollOut) (s : State) : (pollState out s).cresult = s.cresult := rfl
@[simp] theorem pollState_cerr (out : PollOut) (s : State) : (pollState out s).cerr = s.cerr := rfl
@[simp] theorem pollState_mem (out : PollOut) (s : State) : (pollState out s).mem = s.mem := rfl
@[simp] theorem pollState_fault (out : PollOut) (s : State) : (pollState out s).fault = s.fault := rfl
@[simp] theorem pollState_refused (out : PollOut) (s : State) : (pollState out s).refused = s.refused := rfl
@[simp] theorem pollState_history (out : PollOut) (s : State) : (pollState out s).history = s.history ++ out.events := rfl
@[simp] theorem pollState_draws (out : PollOut) (s : State) : (pollState out s).draws = s.draws := rfl

theorem applyPoll_none (out : PollOut) (s : State) (h : out.done = none) : applyPoll out s = pollState out s := by
  simp only [applyPoll, h]; rfl

theorem applyPoll_done (out : PollOut) (s : State) (r : OpResult) (code : Option Word) (h : out.done = some (r, code)) :
    applyPoll out s = deliverDone r code (pollState out s) := by
  simp only [applyPoll, h]; rfl

/-- A transition writes POLL's registers and BUSY_HAZARD, and appends its events. -/
theorem applyPoll_frame (out : PollOut) (s : State) :
    (applyPoll out s).cfg = s.cfg ∧ (applyPoll out s).program = s.program ∧ (applyPoll out s).poll = out.regs ∧
      (applyPoll out s).port = { s.port with busyHazard := out.busy } ∧ (applyPoll out s).cd = s.cd ∧
      (applyPoll out s).mem = s.mem ∧ (applyPoll out s).fault = s.fault ∧ (applyPoll out s).refused = s.refused ∧
      (applyPoll out s).history = s.history ++ out.events ∧ (applyPoll out s).draws = s.draws := by
  cases h : out.done with
  | none => rw [applyPoll_none _ _ h]; exact ⟨rfl, rfl, rfl, rfl, rfl, rfl, rfl, rfl, rfl, rfl⟩
  | some d => rw [applyPoll_done _ _ d.1 d.2 h]; simp
@[simp] theorem applyPoll_cfg (out : PollOut) (s : State) : (applyPoll out s).cfg = s.cfg :=
  (applyPoll_frame out s).1
@[simp] theorem applyPoll_program (out : PollOut) (s : State) : (applyPoll out s).program = s.program :=
  (applyPoll_frame out s).2.1
@[simp] theorem applyPoll_poll (out : PollOut) (s : State) : (applyPoll out s).poll = out.regs :=
  (applyPoll_frame out s).2.2.1
@[simp] theorem applyPoll_port (out : PollOut) (s : State) : (applyPoll out s).port = { s.port with busyHazard := out.busy } :=
  (applyPoll_frame out s).2.2.2.1
@[simp] theorem applyPoll_cd (out : PollOut) (s : State) : (applyPoll out s).cd = s.cd :=
  (applyPoll_frame out s).2.2.2.2.1
@[simp] theorem applyPoll_mem (out : PollOut) (s : State) : (applyPoll out s).mem = s.mem :=
  (applyPoll_frame out s).2.2.2.2.2.1
@[simp] theorem applyPoll_fault (out : PollOut) (s : State) : (applyPoll out s).fault = s.fault :=
  (applyPoll_frame out s).2.2.2.2.2.2.1
@[simp] theorem applyPoll_refused (out : PollOut) (s : State) : (applyPoll out s).refused = s.refused :=
  (applyPoll_frame out s).2.2.2.2.2.2.2.1
@[simp] theorem applyPoll_history (out : PollOut) (s : State) : (applyPoll out s).history = s.history ++ out.events :=
  (applyPoll_frame out s).2.2.2.2.2.2.2.2.1
@[simp] theorem applyPoll_draws (out : PollOut) (s : State) : (applyPoll out s).draws = s.draws :=
  (applyPoll_frame out s).2.2.2.2.2.2.2.2.2

/-- A client that waits for no Done is left as it is. -/
theorem deliverDone_of_not_awaitsDone (r : OpResult) (code : Option Word) (s : State) (h : awaitsDone s.client = false) :
    deliverDone r code s = s := by
  rcases deliverDone_cases r code s with ⟨_, e, _⟩ | ⟨_, e, _⟩ | ⟨_, e, _⟩ | ⟨_, _, e, rfl | rfl, _⟩ | ⟨_, e⟩ <;>
    simp_all [awaitsDone]

/-- A client that waits for no answer is left as it is. -/
theorem clientTakes_of_not_awaitsAnswer (img : Image) (err : Option Word) (s : State) (h : awaitsAnswer s.client = false) :
    clientTakes img err s = s := by
  rcases clientTakes_cases img err s with ⟨_, _, e, _⟩ | ⟨_, e, _⟩ | ⟨_, _, e, _⟩ | ⟨_, e⟩ <;> simp_all [awaitsAnswer]

theorem applyPoll_of_not_awaitsDone (out : PollOut) (s : State) (h : awaitsDone s.client = false) :
    applyPoll out s = pollState out s := by
  cases ho : out.done with
  | none => exact applyPoll_none out s ho
  | some d => rw [applyPoll_done out s d.1 d.2 ho]; exact deliverDone_of_not_awaitsDone _ _ _ h

/-! ### POLL and an answer -/

/-- An answer in WAIT_RSP is a transport failure, a ready word, or a word that is not ready (42 R167 to R170). -/
theorem pollTakes_err (img : Image) (code : Word) (s : State) (h : s.poll.pstate = .checking) (hp : s.poll.phase = .waitRsp) :
    pollTakes img (some code) s = applyPoll (pollRspErr s.poll s.port.busyHazard code) s := by
  simp only [pollTakes, pollStep, h, hp, and_self, if_true]

theorem pollTakes_ok (img : Image) (s : State) (out : PollOut) (h : s.poll.pstate = .checking) (hp : s.poll.phase = .waitRsp)
    (ho : pollRspOk s.cfg s.poll s.port.busyHazard img = some out) : pollTakes img none s = applyPoll out s := by
  simp only [pollTakes, pollStep, h, hp, and_self, if_true, ho]

/-- Everything an answer to POLL can do. -/
theorem pollTakes_cases (img : Image) (err : Option Word) (s : State) :
    pollTakes img err s = s ∨
      (s.poll.pstate = .checking ∧ s.poll.phase = .waitRsp ∧
        ((∃ code, err = some code ∧ pollTakes img err s = applyPoll (pollRspErr s.poll s.port.busyHazard code) s) ∨
          (∃ out, err = none ∧ pollRspOk s.cfg s.poll s.port.busyHazard img = some out ∧
            pollTakes img err s = applyPoll out s))) := by
  by_cases h : s.poll.pstate = .checking ∧ s.poll.phase = .waitRsp
  · cases err with
    | some code => exact .inr ⟨h.1, h.2, .inl ⟨code, rfl, pollTakes_err img code s h.1 h.2⟩⟩
    | none =>
      cases ho : pollRspOk s.cfg s.poll s.port.busyHazard img with
      | none => left; simp only [pollTakes, pollStep, if_pos h, ho]
      | some out => exact .inr ⟨h.1, h.2, .inr ⟨out, rfl, rfl, pollTakes_ok img s out h.1 h.2 ho⟩⟩
  · left
    cases err <;> simp only [pollTakes, pollStep, if_neg h]

/-- POLL's taking of an answer leaves CD, host memory and the run's records. -/
theorem pollTakes_frame (img : Image) (err : Option Word) (s : State) :
    (pollTakes img err s).cfg = s.cfg ∧ (pollTakes img err s).program = s.program ∧ (pollTakes img err s).cd = s.cd ∧
      (pollTakes img err s).mem = s.mem ∧ (pollTakes img err s).fault = s.fault ∧
      (pollTakes img err s).refused = s.refused ∧ (pollTakes img err s).draws = s.draws := by
  rcases pollTakes_cases img err s with e | ⟨_, _, ⟨_, _, e⟩ | ⟨_, _, _, e⟩⟩ <;> simp [e]
@[simp] theorem pollTakes_cfg (img : Image) (err : Option Word) (s : State) : (pollTakes img err s).cfg = s.cfg :=
  (pollTakes_frame img err s).1
@[simp] theorem pollTakes_program (img : Image) (err : Option Word) (s : State) : (pollTakes img err s).program = s.program :=
  (pollTakes_frame img err s).2.1
@[simp] theorem pollTakes_cd (img : Image) (err : Option Word) (s : State) : (pollTakes img err s).cd = s.cd :=
  (pollTakes_frame img err s).2.2.1
@[simp] theorem pollTakes_mem (img : Image) (err : Option Word) (s : State) : (pollTakes img err s).mem = s.mem :=
  (pollTakes_frame img err s).2.2.2.1
@[simp] theorem pollTakes_fault (img : Image) (err : Option Word) (s : State) : (pollTakes img err s).fault = s.fault :=
  (pollTakes_frame img err s).2.2.2.2.1
@[simp] theorem pollTakes_refused (img : Image) (err : Option Word) (s : State) : (pollTakes img err s).refused = s.refused :=
  (pollTakes_frame img err s).2.2.2.2.2.1
@[simp] theorem pollTakes_draws (img : Image) (err : Option Word) (s : State) : (pollTakes img err s).draws = s.draws :=
  (pollTakes_frame img err s).2.2.2.2.2.2

/-- POLL's taking of an answer leaves everything of the client but what a Done it waits for writes. -/
theorem pollTakes_of_not_awaitsDone (img : Image) (err : Option Word) (s : State) (h : awaitsDone s.client = false) :
    (pollTakes img err s).client = s.client ∧ (pollTakes img err s).cpc = s.cpc ∧ (pollTakes img err s).cw = s.cw ∧
      (pollTakes img err s).cresult = s.cresult ∧ (pollTakes img err s).cerr = s.cerr := by
  rcases pollTakes_cases img err s with e | ⟨_, _, ⟨_, _, e⟩ | ⟨_, _, _, e⟩⟩ <;> rw [e]
  · exact ⟨rfl, rfl, rfl, rfl, rfl⟩
  · rw [applyPoll_of_not_awaitsDone _ _ h]; exact ⟨rfl, rfl, rfl, rfl, rfl⟩
  · rw [applyPoll_of_not_awaitsDone _ _ h]; exact ⟨rfl, rfl, rfl, rfl, rfl⟩

/-- Everything a successful answer can leave (42 R168 to R170). -/
theorem pollRspOk_cases (c : Params) (r : PollRegs) (busy : Bool) (img : Image) (out : PollOut)
    (h : pollRspOk c r busy img = some out) :
    (isReady (respOf c img).r0 = true ∧ out = pollFinish (pollEnd (pollAnswered c r img) .ready .ok) false .ok none) ∨
      (isReady (respOf c img).r0 = false ∧ (r.attempts.toNat < Config.maxAttempts ∨ c.delayAfterLast = true) ∧
        out = ⟨{ pollAnswered c r img with phase := .delay }, busy, [.delayReq Config.pollDelayMs], none⟩) ∨
      (isReady (respOf c img).r0 = false ∧ r.attempts.toNat = Config.maxAttempts ∧ c.delayAfterLast = false ∧
        out = pollFinish (pollEnd (pollAnswered c r img) .exhausted .timeout) busy .timeout none) := by
  unfold pollRspOk at h
  by_cases h1 : isReady (respOf c img).r0 = true
  · rw [if_pos h1] at h; exact .inl ⟨h1, (Option.some.inj h).symm⟩
  rw [if_neg h1] at h
  have h1' : isReady (respOf c img).r0 = false := by simpa using h1
  by_cases h2 : r.attempts.toNat < Config.maxAttempts ∨ c.delayAfterLast = true
  · rw [if_pos h2] at h; exact .inr (.inl ⟨h1', h2, (Option.some.inj h).symm⟩)
  rw [if_neg h2] at h
  by_cases h3 : r.attempts.toNat = Config.maxAttempts
  · rw [if_pos h3] at h
    refine .inr (.inr ⟨h1', h3, ?_, (Option.some.inj h).symm⟩)
    cases hd : c.delayAfterLast with
    | true => exact absurd (.inr hd) h2
    | false => rfl
  · rw [if_neg h3] at h; cases h

/-- Everything a DelayDone can leave (42 R171, R172). -/
theorem pollDelayDone_cases (r : PollRegs) (busy : Bool) (out : PollOut) (h : pollDelayDone r busy = some out) :
    (r.attempts.toNat < Config.maxAttempts ∧ out = ⟨{ r with phase := .issue }, busy, [], none⟩) ∨
      (r.attempts.toNat = Config.maxAttempts ∧ out = pollFinish (pollEnd r .exhausted .timeout) busy .timeout none) := by
  unfold pollDelayDone at h
  by_cases h1 : r.attempts.toNat < Config.maxAttempts
  · rw [if_pos h1] at h; exact .inl ⟨h1, (Option.some.inj h).symm⟩
  rw [if_neg h1] at h
  by_cases h2 : r.attempts.toNat = Config.maxAttempts
  · rw [if_pos h2] at h; exact .inr ⟨h2, (Option.some.inj h).symm⟩
  · rw [if_neg h2] at h; cases h

/-! ### START and ISSUE -/

/-- START outside CHECKING (42 R161). -/
theorem startPoll_ok (dst : Fin 32) (arg : Word) (next : ClientState) (s : State) (h : s.poll.pstate ≠ .checking) :
    startPoll dst arg next s =
      { log [.req (.ensureReady dst arg)] s with poll := pollStart s.poll arg, client := next } := by
  simp only [startPoll, pollStep, if_neg h, applyPoll, log, List.append_nil]

/-- START in CHECKING (42 R162). -/
theorem startPoll_busy (dst : Fin 32) (arg : Word) (next : ClientState) (s : State) (h : s.poll.pstate = .checking) :
    startPoll dst arg next s = raise (.startWhileBusy s.cpc) s := by
  simp only [startPoll, pollStep, if_pos h]

/-- ISSUE submits the status command of ARG (42 R166). -/
theorem issueStep_some (s : State) (arg : Word) (h : s.poll.pstate = .checking ∧ s.poll.phase = .issue)
    (ha : s.poll.arg = some arg) :
    issueStep s =
      submit .poll (sendStatusImg s.cfg arg) (fun s' => { s' with poll := pollIssued s.cfg s.poll arg }) s := by
  simp only [issueStep, pollStep, if_pos h, ha, pollIssued]

theorem issueStep_none (s : State) (h : s.poll.pstate = .checking ∧ s.poll.phase = .issue) (ha : s.poll.arg = none) :
    issueStep s = raise (.unwrittenRead (.reg 3)) s := by
  simp only [issueStep, pollStep, if_pos h, ha]

/-- DelayDone (42 R171, R172). -/
theorem timerStep_some (s : State) (out : PollOut) (h : s.poll.pstate = .checking ∧ s.poll.phase = .delay)
    (ho : pollDelayDone s.poll s.port.busyHazard = some out) : timerStep s = applyPoll out (log [.delayDone] s) := by
  simp only [timerStep, pollStep, if_pos h, ho]

end Sys2Proof.Machine
end

