-- ==== Sys2Proof/Laws/Step.lean ====
section
/-! SUPPORT. Everything a step can do, said once: each next state is one of the kinds of `StepKind`, up to the model's own counter
of draws. -/

namespace Sys2Proof.Machine

/-- An event of a request that ends in its own step: no start of POLL, no transport, timer or fault event. -/
def isLocalEvent : Event → Bool
  | .req (.ensureReady _ _) => false
  | .req _ => true
  | .reply _ => true
  | _ => false

/-- What a request that ends in its own step may change: CW, CD, CPC, the history, the zero-fill of the buffer, and the end of the
client. -/
structure LocalStep (s t : State) : Prop where
  cfg : t.cfg = s.cfg
  program : t.program = s.program
  poll : t.poll = s.poll
  port : t.port = s.port
  cresult : t.cresult = s.cresult
  cerr : t.cerr = s.cerr
  fault : t.fault = s.fault
  refused : t.refused = s.refused
  draws : t.draws = s.draws
  client : t.client = s.client ∨ t.client = .finished
  history : ∃ es, t.history = s.history ++ es ∧ es.all isLocalEvent = true
  mem : t.mem = s.mem ∨
    (addrOk s.cfg.bufAddr.toNat Config.extcsdBytes = true ∧
      t.mem = memStore s.mem s.cfg.bufAddr.toNat (List.replicate Config.extcsdBytes 0))

/-- What a request given to `exec` may leave. -/
inductive RequestKind (s t : State) : Prop where
  | fault (f : Fault) : t = raise f s → RequestKind s t
  | refuse (img : Image) : s.port.call = none → writeFlagOf s.cfg img ≠ 0 → t = refuseWrite .client img s → RequestKind s t
  | ends : LocalStep s t → RequestKind s t
  | start (dst : Fin 32) (arg : Word) : s.poll.pstate ≠ .checking →
    t = { log [.req (.ensureReady dst arg)] s with poll := pollStart s.poll arg, client := .awaitDone dst } → RequestKind s t
  | submit (dst : Fin 32) (src : Fin 16) (img : Image) : s.cd[src] = some img → Admissible s.cfg s.port img →
    t = { admittedState .client img s with client := .awaitXfer dst src } → RequestKind s t
  | fetch (dst : Fin 32) : addrOk s.cfg.bufAddr.toNat Config.extcsdBytes = true →
    t = { writeMem s.cfg.bufAddr.toNat (List.replicate Config.extcsdBytes 0) s with
            cerr := none
            client := .fetching dst .one false } → RequestKind s t

/-! ### Operand forms -/

theorem withCw_cases (i : Fin 32) (k : Word → State → State) (s : State) :
    (∃ f, withCw i k s = raise f s) ∨ (∃ v, s.cw[i] = some v ∧ withCw i k s = k v s) := by
  cases h : s.cw[i] with
  | none => left; exact ⟨.unwrittenRead (.cw i), by simp only [withCw, h]⟩
  | some v => right; exact ⟨v, rfl, by simp only [withCw, h]⟩

theorem withCd_cases (i : Fin 16) (k : Image → State → State) (s : State) :
    (∃ f, withCd i k s = raise f s) ∨ (∃ img, s.cd[i] = some img ∧ withCd i k s = k img s) := by
  cases h : s.cd[i] with
  | none => left; exact ⟨.unwrittenRead (.cd i), by simp only [withCd, h]⟩
  | some v => right; exact ⟨v, rfl, by simp only [withCd, h]⟩

theorem withPollWord_cases (n : Fin 8) (k : Word → State → State) (s : State) :
    (∃ f, withPollWord n k s = raise f s) ∨ (∃ v, pollWord s.poll n = some v ∧ withPollWord n k s = k v s) := by
  cases h : pollWord s.poll n with
  | none => left; exact ⟨.unwrittenRead (.reg n), by simp only [withPollWord, h]⟩
  | some v => right; exact ⟨v, rfl, by simp only [withPollWord, h]⟩

theorem withByte_cases (a : Nat) (k : Byte → State → State) (s : State) :
    (∃ f, withByte a k s = raise f s) ∨ (∃ b, memByte s.mem a = some b ∧ withByte a k s = k b s) := by
  cases h : memByte s.mem a with
  | none => left; exact ⟨.unwrittenRead (.byte a), by simp only [withByte, h]⟩
  | some v => right; exact ⟨v, rfl, by simp only [withByte, h]⟩

theorem withMem32_cases (a : Nat) (k : Word → State → State) (s : State) :
    (∃ f, withMem32 a k s = raise f s) ∨ (∃ v, withMem32 a k s = k v s) := by
  unfold withMem32
  split
  · rcases withByte_cases a _ s with ⟨f, h⟩ | ⟨b0, -, h⟩
    · exact .inl ⟨f, h⟩
    rw [h]
    rcases withByte_cases (a + 1) _ s with ⟨f, h⟩ | ⟨b1, -, h⟩
    · exact .inl ⟨f, h⟩
    rw [h]
    rcases withByte_cases (a + 2) _ s with ⟨f, h⟩ | ⟨b2, -, h⟩
    · exact .inl ⟨f, h⟩
    rw [h]
    rcases withByte_cases (a + 3) _ s with ⟨f, h⟩ | ⟨b3, -, h⟩
    · exact .inl ⟨f, h⟩
    exact .inr ⟨_, h⟩
  · exact .inl ⟨_, rfl⟩

theorem ifLegal_cases (i : Instr) (k : State → State) (s : State) :
    (∃ f, ifLegal i k s = raise f s) ∨ (i.wellFormed = true ∧ ifLegal i k s = k s) := by
  unfold ifLegal
  split
  · exact .inr ⟨‹_›, rfl⟩
  · exact .inl ⟨_, rfl⟩

theorem zeroFill_cases (k : State → State) (s : State) :
    (∃ f, zeroFill k s = raise f s) ∨ (addrOk s.cfg.bufAddr.toNat Config.extcsdBytes = true ∧
      zeroFill k s = k (writeMem s.cfg.bufAddr.toNat (List.replicate Config.extcsdBytes 0) s)) := by
  unfold zeroFill
  split
  · exact .inr ⟨‹_›, rfl⟩
  · exact .inl ⟨_, rfl⟩

/-! ### The requests -/

theorem replyImage_local (i : Instr) (dst : Fin 16) (img : Image) (s : State) (h : isLocalEvent (.req i) = true) :
    LocalStep s (replyImage i dst img s) :=
  ⟨rfl, rfl, rfl, rfl, rfl, rfl, rfl, rfl, rfl, .inl rfl, ⟨_, rfl, by rw [List.all_cons, h]; rfl⟩, .inl rfl⟩

theorem replyWord_local (i : Instr) (dst : Fin 32) (v : Word) (s : State) (h : isLocalEvent (.req i) = true) :
    LocalStep s (replyWord i dst v s) :=
  ⟨rfl, rfl, rfl, rfl, rfl, rfl, rfl, rfl, rfl, .inl rfl, ⟨_, rfl, by rw [List.all_cons, h]; rfl⟩, .inl rfl⟩

theorem unpackInto_local (dst : Fin 32) (src : Fin 16) (img : Image) (s : State) : LocalStep s (unpackInto dst src img s) := by
  unfold unpackInto
  generalize fieldWords (unpackImg s.cfg img) = ws
  exact ⟨rfl, rfl, rfl, rfl, rfl, rfl, rfl, rfl, rfl, .inl rfl, ⟨_, rfl, rfl⟩, .inl rfl⟩

theorem writeCw_local (n : Nat) (dst : Fin 32) (v : Word) (s : State) : LocalStep s (advance n (writeCw dst v s)) :=
  ⟨rfl, rfl, rfl, rfl, rfl, rfl, rfl, rfl, rfl, .inl rfl, ⟨[], by simp, rfl⟩, .inl rfl⟩

theorem jumpIf_local (b : Bool) (t : Word) (s : State) : LocalStep s (jumpIf b t s) := by
  cases b <;> exact ⟨rfl, rfl, rfl, rfl, rfl, rfl, rfl, rfl, rfl, .inl rfl, ⟨[], by simp [jumpIf], rfl⟩, .inl rfl⟩

/-- Everything a request can do. -/
theorem exec_request_kind (i : Instr) (s t : State) (hi : isRequest i = true) (h : exec i s = .next t) : RequestKind s t := by
  cases i <;> simp only [isRequest, Bool.false_eq_true] at hi <;>
    simp only [exec, execHalt, execBuild, execWithTimeout, execWithData, execPack, execUnpack, execRfd, execCstate, execIsReady,
      execEnsureReady, execReadStatus, execExecute, execZeroBuf, execReadBuf, execMovi, execJz, execJnz, execFetchExtcsd,
      Host.Outcome.next.injEq] at h
  case halt =>
    subst h
    exact .ends ⟨rfl, rfl, rfl, rfl, rfl, rfl, rfl, rfl, rfl, .inr rfl, ⟨[], by simp, rfl⟩, .inl rfl⟩
  case build => subst h; exact .ends (replyImage_local _ _ _ _ rfl)
  case withTimeout dst src cms dns =>
    rcases withCd_cases src _ s with ⟨f, e⟩ | ⟨img, -, e⟩ <;> rw [e] at h
    · exact .fault f h.symm
    · subst h; exact .ends (replyImage_local _ _ _ _ rfl)
  case withData dst src addr cnt sz =>
    rcases withCd_cases src _ s with ⟨f, e⟩ | ⟨img, -, e⟩ <;> rw [e] at h
    · exact .fault f h.symm
    · subst h; exact .ends (replyImage_local _ _ _ _ rfl)
  case pack => subst h; exact .ends (replyImage_local _ _ _ _ rfl)
  case unpack dst src =>
    rcases ifLegal_cases (.unpack dst src) _ s with ⟨f, e⟩ | ⟨-, e⟩ <;> rw [e] at h
    · exact .fault f h.symm
    rcases withCd_cases src _ s with ⟨f, e⟩ | ⟨img, -, e⟩ <;> rw [e] at h
    · exact .fault f h.symm
    · subst h; exact .ends (unpackInto_local _ _ _ _)
  case rfd dst src =>
    rcases withCw_cases src _ s with ⟨f, e⟩ | ⟨w, -, e⟩ <;> rw [e] at h
    · exact .fault f h.symm
    · subst h; exact .ends (replyWord_local _ _ _ _ rfl)
  case cstate dst src =>
    rcases withCw_cases src _ s with ⟨f, e⟩ | ⟨w, -, e⟩ <;> rw [e] at h
    · exact .fault f h.symm
    · subst h; exact .ends (replyWord_local _ _ _ _ rfl)
  case isReady dst src =>
    rcases withCw_cases src _ s with ⟨f, e⟩ | ⟨w, -, e⟩ <;> rw [e] at h
    · exact .fault f h.symm
    · subst h; exact .ends (replyWord_local _ _ _ _ rfl)
  case ensureReady dst arg =>
    by_cases hc : s.poll.pstate = .checking
    · rw [startPoll_busy _ _ _ _ hc] at h; exact .fault _ h.symm
    · rw [startPoll_ok _ _ _ _ hc] at h; exact .start dst arg hc h.symm
  case readStatus dst reg =>
    rcases ifLegal_cases (.readStatus dst reg) _ s with ⟨f, e⟩ | ⟨-, e⟩ <;> rw [e] at h
    · exact .fault f h.symm
    by_cases hr : reg = 7
    · rw [if_pos hr] at h
      cases hp : s.poll.pdesc with
      | none => simp only [readPdesc, withPdesc, hp] at h; exact .fault _ h.symm
      | some img =>
        simp only [readPdesc, withPdesc, hp] at h
        subst h
        exact .ends ⟨rfl, rfl, rfl, rfl, rfl, rfl, rfl, rfl, rfl, .inl rfl, ⟨_, rfl, rfl⟩, .inl rfl⟩
    · rw [if_neg hr] at h
      rcases withPollWord_cases reg _ s with ⟨f, e⟩ | ⟨w, -, e⟩ <;> rw [e] at h
      · exact .fault f h.symm
      · subst h; exact .ends (replyWord_local _ _ _ _ rfl)
  case execute dst src =>
    rcases withCd_cases src _ s with ⟨f, e⟩ | ⟨img, hd, e⟩ <;> rw [e] at h
    · exact .fault f h.symm
    rcases submit_cases .client img (fun s => { s with client := .awaitXfer dst src }) s with
      ⟨f, e⟩ | ⟨e, hn, hw⟩ | ⟨ha, e⟩ <;> rw [e] at h
    · exact .fault f h.symm
    · exact .refuse img hn hw h.symm
    · exact .submit dst src img hd ha h.symm
  case zeroBuf =>
    rcases zeroFill_cases (advance 1) s with ⟨f, e⟩ | ⟨ha, e⟩ <;> rw [e] at h
    · exact .fault f h.symm
    · subst h
      exact .ends ⟨rfl, rfl, rfl, rfl, rfl, rfl, rfl, rfl, rfl, .inl rfl, ⟨[], by simp, rfl⟩, .inr ⟨ha, rfl⟩⟩
  case readBuf dst off =>
    rcases ifLegal_cases (.readBuf dst off) _ s with ⟨f, e⟩ | ⟨-, e⟩ <;> rw [e] at h
    · exact .fault f h.symm
    rcases withMem32_cases (s.cfg.bufAddr.toNat + off.toNat) _ s with ⟨f, e⟩ | ⟨v, e⟩ <;> rw [e] at h
    · exact .fault f h.symm
    · subst h; exact .ends (writeCw_local _ _ _ _)
  case movi => subst h; exact .ends (writeCw_local _ _ _ _)
  case jz src tgt =>
    rcases withCw_cases src _ s with ⟨f, e⟩ | ⟨w, -, e⟩ <;> rw [e] at h
    · exact .fault f h.symm
    · subst h; exact .ends (jumpIf_local _ _ _)
  case jnz src tgt =>
    rcases withCw_cases src _ s with ⟨f, e⟩ | ⟨w, -, e⟩ <;> rw [e] at h
    · exact .fault f h.symm
    · subst h; exact .ends (jumpIf_local _ _ _)
  case fetchExtcsd dst =>
    rcases zeroFill_cases (fun s => { s with cerr := none, client := .fetching dst .one false }) s with ⟨f, e⟩ | ⟨ha, e⟩ <;>
      rw [e] at h
    · exact .fault f h.symm
    · exact .fetch dst ha h.symm

/-- A frame decodes to a request of F-REQ, never to one of the transport's three rows. -/
theorem decodeFrame_isRequest (ws : List Word) (i : Instr) (rest : List Word) (h : decodeFrame ws = .ok (i, rest)) :
    isRequest i = true := by
  obtain ⟨hd, ops, -, -, h⟩ := decodeFrame_ok ws i rest h
  exact (decodeOpsel_ok _ _ _ _ _ _ h).1

/-! ### The transport's turn -/

/-- The instruction decoded from an image performs a call with that image (30 R81 to R83). -/
theorem exec_decodeImage (s : State) (call : Call) (hc : s.port.call = some call) :
    exec (decodeImage s.cfg call.image) s = performCall call.image s := by
  unfold decodeImage
  split
  · rename_i h
    simp only [exec, execSendStatusDesc]
    exact congrArg (fun img => performCall img s) h.symm
  · split
    · rename_i h
      simp only [exec, execSendExtCsdDesc]
      exact congrArg (fun img => performCall img s) h.symm
    · simp only [exec, execMmcControlCall, hc]

/-- A row of the transport that performs an image is the performing of it (30 R81 to R83; log 14). -/
theorem exec_of_performs (s : State) (call : Call) (i : Instr) (img : Image) (hc : s.port.call = some call)
    (hp : performs s.cfg call.image i = some img) : exec i s = performCall img s := by
  cases i <;> simp only [performs, Option.some.injEq, reduceCtorEq] at hp <;> subst hp
  · rfl
  · rfl
  · simp only [exec, execMmcControlCall, hc]

/-! ### Every step -/

/-- What a step may leave, once the counter of draws has been advanced where agents were chosen between. -/
inductive StepKind (s t : State) : Prop where
  /-- A fault; everything else is as it was. -/
  | fault (f : Fault) : t = raise f s → StepKind s t
  /-- A write command of the client is refused: the mark and the request are recorded, and everything else is as it was. -/
  | refuse (img : Image) : clientEnabled s = true → s.port.call = none → writeFlagOf s.cfg img ≠ 0 →
    t = refuseWrite .client img s → StepKind s t
  /-- A request of the client that ends in its own step. -/
  | ends : clientEnabled s = true → s.client = .ready → LocalStep s t → StepKind s t
  /-- START, for an ENSURE_READY or a check of a fetch. -/
  | start (dst : Fin 32) (arg : Word) (next : ClientState) : clientEnabled s = true → s.poll.pstate ≠ .checking →
    (s.client = .ready ∧ next = .awaitDone dst ∨
      s.client = .fetching dst .one false ∧ next = .fetching dst .two true ∧ arg = s.cfg.statusArg ∨
      s.client = .fetching dst .three false ∧ next = .fetching dst .four true ∧ arg = s.cfg.statusArg) →
    t = { log [.req (.ensureReady dst arg)] s with poll := pollStart s.poll arg, client := next } → StepKind s t
  /-- EXECUTE, or the CMD8 of a fetch, is admitted. -/
  | submit (img : Image) (next : ClientState) : clientEnabled s = true → Admissible s.cfg s.port img →
    (s.client = .ready ∧ (∃ dst src, next = .awaitXfer dst src ∧ s.cd[src] = some img) ∨
      ∃ dst, s.client = .fetching dst .two false ∧ next = .fetching dst .three true ∧
        img = sendExtCsdImg s.cfg s.cfg.bufAddr) →
    t = { admittedState .client img s with client := next } → StepKind s t
  /-- The first step of a FETCH_EXTCSD. -/
  | fetch (dst : Fin 32) : clientEnabled s = true → s.client = .ready →
    addrOk s.cfg.bufAddr.toNat Config.extcsdBytes = true →
    t = { writeMem s.cfg.bufAddr.toNat (List.replicate Config.extcsdBytes 0) s with
            cerr := none
            client := .fetching dst .one false } → StepKind s t
  /-- A fetch that stands at step 4 or 5 without waiting, which no run reaches. -/
  | fetchEnd (dst : Fin 32) : fetchPlace s.client = false → t = finishFetch dst .ok s → StepKind s t
  /-- ISSUE. -/
  | issue (arg : Word) : pollEnabled s = true → s.poll.arg = some arg →
    Admissible s.cfg s.port (sendStatusImg s.cfg arg) →
    t = { admittedState .poll (sendStatusImg s.cfg arg) s with poll := pollIssued s.cfg s.poll arg } → StepKind s t
  /-- The answer to a call. -/
  | answer (call : Call) (a : Answer) : s.port.call = some call →
    addrOk (ptrOf s.cfg call.image).toNat (transferBytes s.cfg call.image a).length = true →
    t = (match call.owner with
      | .poll => pollTakes (setResp s.cfg call.image a.resp) a.err
          (answerPort call.image a { s with draws := s.draws + 1 })
      | .client => clientTakes (setResp s.cfg call.image a.resp) a.err
          (answerPort call.image a { s with draws := s.draws + 1 })) → StepKind s t
  /-- The answer to a call whose transfer passes 2^64-1. -/
  | answerFault (f : Fault) : t = raise f { s with draws := s.draws + 1 } → StepKind s t
  /-- DelayDone. -/
  | timer (out : PollOut) : s.poll.pstate = .checking → s.poll.phase = .delay →
    pollDelayDone s.poll s.port.busyHazard = some out → t = applyPoll out (log [.delayDone] s) → StepKind s t

theorem performCall_kind (s t : State) (call : Call) (hc : s.port.call = some call)
    (h : performCall call.image s = .next t) : StepKind s t := by
  simp only [performCall, hc, Host.Outcome.next.injEq, answerCall] at h
  split at h
  · exact .answer call (drawAnswer s.cfg s.draws) hc ‹_› h.symm
  · exact .answerFault _ h.symm

/-- What the step of an agent does. -/
def carryOut (p : Plan) : Host.Outcome State Fault Refusal :=
  match p with
  | .exec i s' => exec i s'
  | .move s' => .next s'
  | .fault f => .fault f
  | .refused r => .refused r

theorem step_eq (s : State) : step s = carryOut (plan s) := rfl

theorem enabled_mem (a : Agent) (s : State) (h : a ∈ enabled s) :
    match a with
    | .client => clientEnabled s = true
    | .poll => pollEnabled s = true
    | .transport => transportEnabled s = true
    | .timer => timerEnabled s = true := by
  unfold enabled at h
  cases a <;> simpa using h

/-- Everything an agent's turn can do. -/
theorem turn_kind (a : Agent) (s t : State) (he : a ∈ enabled s) (h : carryOut (turn a s) = .next t) : StepKind s t := by
  have hen := enabled_mem a s he
  cases a with
  | client =>
    simp only at hen
    unfold turn at h
    simp only at h
    split at h
    · rename_i dst k hcl
      simp only [carryOut, Host.Outcome.next.injEq] at h
      subst h
      cases k with
      | one =>
        by_cases hc : s.poll.pstate = .checking
        · exact .fault _ (startPoll_busy _ _ _ _ hc)
        · exact .start dst _ _ hen hc (.inr (.inl ⟨hcl, rfl, rfl⟩)) (startPoll_ok _ _ _ _ hc)
      | two =>
        rcases submit_cases .client (sendExtCsdImg s.cfg s.cfg.bufAddr)
          (fun s => { s with client := .fetching dst .three true }) s with ⟨f, e⟩ | ⟨e, hn, hw⟩ | ⟨ha, e⟩
        · exact .fault f e
        · exact .refuse _ hen hn hw e
        · exact .submit _ _ hen ha (.inr ⟨dst, hcl, rfl, rfl⟩) e
      | three =>
        by_cases hc : s.poll.pstate = .checking
        · exact .fault _ (startPoll_busy _ _ _ _ hc)
        · exact .start dst _ _ hen hc (.inr (.inr ⟨hcl, rfl, rfl⟩)) (startPoll_ok _ _ _ _ hc)
      | four => exact .fetchEnd dst (by rw [hcl]; rfl) rfl
      | five => exact .fetchEnd dst (by rw [hcl]; rfl) rfl
    all_goals
      rename_i hcl
      first
        | (exfalso; simp only [clientEnabled, hcl, Bool.not_true, Bool.and_false, Bool.false_eq_true] at hen; done)
        | skip
    have h' : carryOut (fetchRequest s) = .next t := h
    unfold fetchRequest at h'
    split at h'
    · rename_i i rest hd
      rcases exec_request_kind i s t (decodeFrame_isRequest _ _ _ hd) h' with
        ⟨f, e⟩ | ⟨img, hn, hw, e⟩ | e | ⟨dst, arg, hp, e⟩ | ⟨dst, src, img, hs, ha, e⟩ | ⟨dst, ha, e⟩
      · exact .fault f e
      · exact .refuse img hen hn hw e
      · exact .ends hen hcl e
      · exact .start dst arg _ hen hp (.inl ⟨hcl, rfl⟩) e
      · exact .submit img _ hen ha (.inl ⟨hcl, dst, src, rfl, hs⟩) e
      · exact .fetch dst hen hcl ha e
    · simp only [carryOut, Host.Outcome.next.injEq] at h'
      exact .fault _ h'.symm
  | poll =>
    simp only [turn, carryOut, Host.Outcome.next.injEq] at h
    have hp : s.poll.pstate = .checking ∧ s.poll.phase = .issue := by
      simp only [pollEnabled, Bool.and_eq_true, decide_eq_true_eq] at hen
      exact hen.2
    cases ha : s.poll.arg with
    | none => rw [issueStep_none s hp ha] at h; exact .fault _ h.symm
    | some arg =>
      rw [issueStep_some s arg hp ha] at h
      rcases submit_cases .poll (sendStatusImg s.cfg arg) (fun s' => { s' with poll := pollIssued s.cfg s.poll arg }) s with
        ⟨f, e⟩ | ⟨e, -, hw⟩ | ⟨had, e⟩ <;> rw [e] at h
      · exact .fault f h.symm
      · exact absurd (sendStatusImg_fields s.cfg arg).2.1 hw
      · exact .issue arg hen ha had h.symm
  | transport =>
    simp only [turn] at h
    cases hc : s.port.call with
    | none => simp only [hc, carryOut] at h; cases h
    | some call =>
      simp only [hc, carryOut] at h
      rw [exec_decodeImage s call hc] at h
      exact performCall_kind s t call hc h
  | timer =>
    simp only [turn, carryOut, Host.Outcome.next.injEq] at h
    simp only [timerEnabled, Bool.and_eq_true, decide_eq_true_eq, Option.isSome_iff_exists] at hen
    obtain ⟨hp, out, ho⟩ := hen
    rw [timerStep_some s out hp ho] at h
    exact .timer out hp.1 hp.2 ho h.symm

/-- Everything a step can do: no fault is held, and the state, its draws perhaps advanced, changes as one of the kinds says. -/
theorem step_kind (s t : State) (h : step s = .next t) :
    s.fault = none ∧ ∃ d, StepKind { s with draws := d } t := by
  have hf : s.fault = none := by
    cases hf : s.fault with
    | none => rfl
    | some f => simp only [step_eq, plan, hf, carryOut] at h; cases h
  refine ⟨hf, ?_⟩
  simp only [step_eq, plan, hf] at h
  split at h
  · cases h
  · rename_i a ha
    exact ⟨s.draws, turn_kind a s t (by rw [ha]; exact List.mem_singleton.mpr rfl) h⟩
  · rename_i a as _ ha
    rw [← hf] at h
    refine ⟨s.draws + 1, turn_kind _ { s with draws := s.draws + 1 } t ?_ h⟩
    have he : enabled { s with draws := s.draws + 1 } = enabled s := rfl
    rw [he, ha]
    cases hg : (a :: as)[Config.freeAgent s.draws % (a :: as).length]? with
    | none => exact List.mem_cons_self
    | some b => exact List.mem_of_getElem? hg

end Sys2Proof.Machine
end

