-- ==== Sys2Proof/Laws/Transaction.lean ====
section
/-! SUPPORT. What every step does to POLL, to the port and to the history: the transactions of the ports (10 R36), one kind for each.
The statements about invocations, calls and the order of events read a step through `step_transaction`. -/

namespace Sys2Proof.Machine

/-- The events of an answer: the answer itself, then the trace. -/
def answerEvents (c : Params) (img : Image) (a : Answer) : List Event :=
  answerEvent (setResp c img a.resp) a :: traceResult c a

/-- The port once the call is answered. -/
def answeredPort (c : Params) (img : Image) (p : PortState) : PortState := ⟨none, busyAfter c img p.busyHazard⟩

/-- What a step does to POLL, the port and the history. -/
inductive Transaction (s t : State) : Prop where
  /-- Nothing but requests that end in their own step, with their replies, or a fault. -/
  | quiet (es : List Event) : t.poll = s.poll → t.port = s.port → t.history = s.history ++ es →
    (es = [] ∨ (clientEnabled s = true ∧ es.all isLocalEvent = true) ∨ ∃ f, es = [.fault f]) → Transaction s t
  /-- START (42 R161). -/
  | start (dst : Fin 32) (arg : Word) : s.poll.pstate ≠ .checking → t.poll = pollStart s.poll arg → t.port = s.port →
    t.history = s.history ++ [.req (.ensureReady dst arg)] → Transaction s t
  /-- A command of the client is admitted. -/
  | submit (img : Image) : clientEnabled s = true → Admissible s.cfg s.port img → t.poll = s.poll →
    t.port = { s.port with call := some ⟨.client, img⟩ } →
    t.history = s.history ++ (.xferReq .client img :: traceIssue s.cfg img) → Transaction s t
  /-- A write command of the client is refused (60 R264). -/
  | refused (img : Image) : clientEnabled s = true → s.port.call = none → writeFlagOf s.cfg img ≠ 0 → t.poll = s.poll →
    t.port = s.port → t.history = s.history ++ [.xferReq .client img] → Transaction s t
  /-- ISSUE (42 R166). -/
  | issue (arg : Word) : s.poll.pstate = .checking → s.poll.phase = .issue → s.poll.arg = some arg →
    Admissible s.cfg s.port (sendStatusImg s.cfg arg) → t.poll = pollIssued s.cfg s.poll arg →
    t.port = { s.port with call := some ⟨.poll, sendStatusImg s.cfg arg⟩ } →
    t.history = s.history ++ (.xferReq .poll (sendStatusImg s.cfg arg) :: traceIssue s.cfg (sendStatusImg s.cfg arg)) →
    Transaction s t
  /-- An answer that moves no POLL: the client's, or one POLL does not wait for. -/
  | answered (call : Call) (a : Answer) : s.port.call = some call →
    (call.owner = .client ∨ ¬ (s.poll.pstate = .checking ∧ s.poll.phase = .waitRsp) ∨
      (Config.maxAttempts < s.poll.attempts.toNat)) →
    t.poll = s.poll → t.port = answeredPort s.cfg call.image s.port →
    t.history = s.history ++ answerEvents s.cfg call.image a → Transaction s t
  /-- RSP_ERR (42 R167). -/
  | rspErr (img : Image) (a : Answer) (code : Word) : s.port.call = some ⟨.poll, img⟩ → s.poll.pstate = .checking →
    s.poll.phase = .waitRsp → a.err = some code →
    t.poll = { pollEnd s.poll .failed .transport with errcode := some code } → t.port = answeredPort s.cfg img s.port →
    t.history = s.history ++ (.xferErr code :: traceResult s.cfg a ++ [.done .transport (some code)]) → Transaction s t
  /-- RSP_READY (42 R168). -/
  | rspReady (img : Image) (a : Answer) : s.port.call = some ⟨.poll, img⟩ → s.poll.pstate = .checking →
    s.poll.phase = .waitRsp → a.err = none → isReady a.resp.r0 = true →
    t.poll = pollEnd (pollAnswered s.cfg s.poll (setResp s.cfg img a.resp)) .ready .ok → t.port = ⟨none, false⟩ →
    t.history = s.history ++ (.xferOk (setResp s.cfg img a.resp) :: traceResult s.cfg a ++ [.done .ok none]) → Transaction s t
  /-- RSP_BUSY (42 R169). -/
  | rspBusy (img : Image) (a : Answer) : s.port.call = some ⟨.poll, img⟩ → s.poll.pstate = .checking →
    s.poll.phase = .waitRsp → a.err = none → isReady a.resp.r0 = false →
    s.poll.attempts.toNat < Config.maxAttempts ∨ s.cfg.delayAfterLast = true →
    t.poll = { pollAnswered s.cfg s.poll (setResp s.cfg img a.resp) with phase := .delay } →
    t.port = answeredPort s.cfg img s.port →
    t.history = s.history ++
      (.xferOk (setResp s.cfg img a.resp) :: traceResult s.cfg a ++ [.delayReq Config.pollDelayMs]) → Transaction s t
  /-- RSP_LAST (42 R170). -/
  | rspLast (img : Image) (a : Answer) : s.port.call = some ⟨.poll, img⟩ → s.poll.pstate = .checking →
    s.poll.phase = .waitRsp → a.err = none → isReady a.resp.r0 = false → s.poll.attempts.toNat = Config.maxAttempts →
    s.cfg.delayAfterLast = false →
    t.poll = pollEnd (pollAnswered s.cfg s.poll (setResp s.cfg img a.resp)) .exhausted .timeout →
    t.port = answeredPort s.cfg img s.port →
    t.history = s.history ++ (.xferOk (setResp s.cfg img a.resp) :: traceResult s.cfg a ++ [.done .timeout none]) →
    Transaction s t
  /-- DLY_NEXT (42 R171). -/
  | dlyNext : s.poll.pstate = .checking → s.poll.phase = .delay → s.poll.attempts.toNat < Config.maxAttempts →
    t.poll = { s.poll with phase := .issue } → t.port = s.port → t.history = s.history ++ [.delayDone] → Transaction s t
  /-- DLY_LAST (42 R172). -/
  | dlyLast : s.poll.pstate = .checking → s.poll.phase = .delay → s.poll.attempts.toNat = Config.maxAttempts →
    t.poll = pollEnd s.poll .exhausted .timeout → t.port = s.port →
    t.history = s.history ++ [.delayDone, .done .timeout none] → Transaction s t

/-- An answer to POLL's call is one of the four rows of 42 R167 to R170, or changes no register of POLL. -/
theorem pollTakes_transaction (s t : State) (img : Image) (a : Answer) (d : Nat) (hc : s.port.call = some ⟨.poll, img⟩)
    (h : t = pollTakes (setResp s.cfg img a.resp) a.err (answerPort img a { s with draws := d })) : Transaction s t := by
  subst h
  by_cases hw : s.poll.pstate = .checking ∧ s.poll.phase = .waitRsp
  · cases he : a.err with
    | some code =>
      have e := pollTakes_err (img := setResp s.cfg img a.resp) (code := code)
        (s := answerPort img a { s with draws := d }) (h := hw.1) (hp := hw.2)
      rw [e]
      exact .rspErr img a code hc hw.1 hw.2 he (applyPoll_poll _ _) (applyPoll_port _ _)
        (by rw [applyPoll_history, answerPort_history, answerEvent, he, List.append_assoc]; rfl)
    | none =>
      have hev : answerEvent (setResp s.cfg img a.resp) a = .xferOk (setResp s.cfg img a.resp) := by simp only [answerEvent, he]
      have hr0 : (respOf s.cfg (setResp s.cfg img a.resp)).r0 = a.resp.r0 := by rw [respOf_setResp]
      cases ho : pollRspOk s.cfg s.poll (busyAfter s.cfg img s.port.busyHazard) (setResp s.cfg img a.resp) with
      | none =>
        have e : pollTakes (setResp s.cfg img a.resp) none (answerPort img a { s with draws := d }) =
            answerPort img a { s with draws := d } := by
          rcases pollTakes_cases (setResp s.cfg img a.resp) none (answerPort img a { s with draws := d }) with
            e | ⟨-, -, ⟨_, e, -⟩ | ⟨_, -, e, -⟩⟩
          · exact e
          · cases e
          · exact absurd (ho.symm.trans e) (by simp)
        rw [e]
        refine .answered ⟨.poll, img⟩ a hc (.inr (.inr ?_)) rfl rfl rfl
        unfold pollRspOk at ho
        by_contra hle
        split at ho
        · cases ho
        · split at ho
          · cases ho
          · rename_i h2
            split at ho
            · cases ho
            · rename_i h3
              exact h2 (.inl (by omega))
      | some out =>
        have e := pollTakes_ok (img := setResp s.cfg img a.resp) (s := answerPort img a { s with draws := d }) (h := hw.1)
          (hp := hw.2) (ho := ho)
        rw [e]
        rcases pollRspOk_cases _ _ _ _ _ ho with ⟨h1, e1⟩ | ⟨h1, h2, e1⟩ | ⟨h1, h2, h3, e1⟩ <;> subst e1 <;> rw [hr0] at h1
        · exact .rspReady img a hc hw.1 hw.2 he h1 (applyPoll_poll _ _) (applyPoll_port _ _)
            (by rw [applyPoll_history, answerPort_history, List.append_assoc]; simp only [hev]; rfl)
        · exact .rspBusy img a hc hw.1 hw.2 he h1 h2 (applyPoll_poll _ _) (applyPoll_port _ _)
            (by rw [applyPoll_history, answerPort_history, List.append_assoc]; simp only [hev])
        · exact .rspLast img a hc hw.1 hw.2 he h1 h2 h3 (applyPoll_poll _ _) (applyPoll_port _ _)
            (by rw [applyPoll_history, answerPort_history, List.append_assoc]; simp only [hev]; rfl)
  · rcases pollTakes_cases (setResp s.cfg img a.resp) a.err (answerPort img a { s with draws := d }) with e | ⟨h1, h2, -⟩
    · rw [e]
      exact .answered ⟨.poll, img⟩ a hc (.inr (.inl hw)) rfl rfl rfl
    · exact absurd ⟨h1, h2⟩ hw

/-- Every step is one transaction. -/
theorem step_transaction (s t : State) (h : step s = .next t) : Transaction s t := by
  obtain ⟨-, d, hk⟩ := step_kind s t h
  rcases hk with ⟨f, e⟩ | ⟨img, hen, hn, hw, e⟩ | ⟨hen, _, e⟩ | ⟨dst, arg, nx, _, hp, _, e⟩ | ⟨img, nx, hen, hadm, _, e⟩ | ⟨dst, _, _, _, e⟩ |
    ⟨dst, _, e⟩ | ⟨arg, hp, ha, hadm, e⟩ | ⟨call, a, hc, _, e⟩ | ⟨f, e⟩ | ⟨out, hp, hd, ho, e⟩
  · subst e; exact .quiet [.fault f] rfl rfl rfl (.inr (.inr ⟨f, rfl⟩))
  · subst e; exact .refused img hen hn hw rfl rfl rfl
  · obtain ⟨es, h1, h2⟩ := e.history
    exact .quiet es e.poll e.port h1 (.inr (.inl ⟨hen, h2⟩))
  · subst e; exact .start dst arg hp rfl rfl rfl
  · subst e; exact .submit img hen hadm rfl rfl rfl
  · subst e; exact .quiet [] rfl rfl (List.append_nil _).symm (.inl rfl)
  · subst e; exact .quiet [] rfl rfl (List.append_nil _).symm (.inl rfl)
  · subst e
    simp only [pollEnabled, Bool.and_eq_true, decide_eq_true_eq] at hp
    exact .issue arg hp.2.1 hp.2.2 ha hadm rfl rfl rfl
  · obtain ⟨o, img⟩ := call
    cases o with
    | client =>
      subst e
      exact .answered ⟨.client, img⟩ a hc (.inl rfl) (by simp) (by simp; rfl) (by simp [answerEvents])
    | poll => exact pollTakes_transaction s t img a (d + 1) hc e
  · subst e; exact .quiet [.fault f] rfl rfl rfl (.inr (.inr ⟨f, rfl⟩))
  · subst e
    rcases pollDelayDone_cases _ _ _ ho with ⟨h1, e1⟩ | ⟨h1, e1⟩ <;> subst e1
    · exact .dlyNext hp hd h1 (applyPoll_poll _ _) (applyPoll_port _ _) (by rw [applyPoll_history]; simp [log])
    · exact .dlyLast hp hd h1 (applyPoll_poll _ _) (applyPoll_port _ _)
        (by rw [applyPoll_history]; simp [log, pollFinish])

end Sys2Proof.Machine
end

