-- ==== Sys2Proof/Laws/Consistent.lean ====
section
/-! SUPPORT. What the synchronous discipline says of a state (20 R65, 44 R220): who can act, and whose call is outstanding. -/

namespace Sys2Proof.Machine

/-- A client that has a step waits for nothing. -/
theorem enabled_waits (s : State) (h : clientEnabled s = true) : awaitsDone s.client = false ∧ awaitsAnswer s.client = false := by
  simp only [clientEnabled, Bool.and_eq_true] at h
  obtain ⟨_, h⟩ := h
  cases e : s.client with
  | fetching d k w => rw [e] at h; cases k <;> cases w <;> first | exact ⟨rfl, rfl⟩ | cases h
  | _ => rw [e] at h; first | exact ⟨rfl, rfl⟩ | cases h

/-- A client that waits for an answer waits for no Done. -/
theorem not_awaitsDone_of_awaitsAnswer (cl : ClientState) (h : awaitsAnswer cl = true) : awaitsDone cl = false := by
  cases cl with
  | fetching d k w => cases k <;> cases w <;> first | rfl | cases h
  | _ => first | rfl | cases h

/-- While the client waits for no Done, POLL is at rest. -/
theorem Synchronous.idle {s : State} (hs : Synchronous s) (h : awaitsDone s.client = false) :
    s.poll.phase = .idle ∧ s.poll.pstate ≠ .checking := by
  obtain ⟨h1, h2, -, -, -⟩ := hs
  have hp : s.poll.pstate ≠ .checking := by intro hp; have := h2.mp hp; rw [h] at this; cases this
  exact ⟨by by_contra hi; exact hp (h1.mpr hi), hp⟩

/-- No call is outstanding unless POLL is in WAIT_RSP or the client waits for an answer. -/
theorem Synchronous.call_none {s : State} (hs : Synchronous s) (h1 : s.poll.phase ≠ .waitRsp)
    (h2 : awaitsAnswer s.client = false) : s.port.call = none := by
  obtain ⟨-, -, h3, h4, -⟩ := hs
  cases hcall : s.port.call with
  | none => rfl
  | some call =>
    cases ho : call.owner with
    | poll => exact absurd (h3.mp (by rw [State.xowner, hcall]; exact congrArg some ho)) h1
    | client =>
      have := h4.mp (by rw [State.xowner, hcall]; exact congrArg some ho)
      rw [h2] at this; cases this

/-- A call of POLL: POLL is in WAIT_RSP, and the client waits for its Done. -/
theorem Synchronous.poll_call {s : State} (hs : Synchronous s) {img : Image} (h : s.port.call = some ⟨.poll, img⟩) :
    s.poll.pstate = .checking ∧ s.poll.phase = .waitRsp ∧ awaitsDone s.client = true ∧ awaitsAnswer s.client = false := by
  obtain ⟨h1, h2, h3, h4, h5⟩ := hs
  have a := h3.mp (by rw [State.xowner, h]; rfl)
  have b := h1.mpr (by rw [a]; decide)
  refine ⟨b, a, h2.mp b, ?_⟩
  cases e : awaitsAnswer s.client with
  | false => rfl
  | true => have := h2.mp b; rw [not_awaitsDone_of_awaitsAnswer _ e] at this; cases this

/-- A call of the client: the client waits for its answer, and POLL is at rest. -/
theorem Synchronous.client_call {s : State} (hs : Synchronous s) {img : Image} (h : s.port.call = some ⟨.client, img⟩) :
    awaitsAnswer s.client = true ∧ s.poll.phase = .idle ∧ s.poll.pstate ≠ .checking := by
  have a := hs.2.2.2.1.mp (by rw [State.xowner, h]; rfl)
  exact ⟨a, hs.idle (not_awaitsDone_of_awaitsAnswer _ a)⟩

/-- A client that has a step: POLL is at rest and no call is outstanding. -/
theorem Synchronous.client_turn {s : State} (hs : Synchronous s) (h : clientEnabled s = true) :
    s.poll.phase = .idle ∧ s.poll.pstate ≠ .checking ∧ s.port.call = none := by
  have hw := enabled_waits s h
  have hi := hs.idle hw.1
  exact ⟨hi.1, hi.2, hs.call_none (by rw [hi.1]; decide) hw.2⟩

/-- Below the budget, an attempt more does not wrap (42 R166). -/
theorem attempts_succ (w : Word) (h : w.toNat < Config.maxAttempts) : (w + 1).toNat = w.toNat + 1 := by
  have : w.toNat < 50 := h
  rw [BitVec.toNat_add]; simp; omega

/-- In WAIT_RSP within the budget, every successful answer has a row (42 R168 to R170). -/
theorem pollRspOk_some (c : Params) (r : PollRegs) (busy : Bool) (img : Image) (h : r.attempts.toNat ≤ Config.maxAttempts) :
    ∃ out, pollRspOk c r busy img = some out := by
  unfold pollRspOk
  split
  · exact ⟨_, rfl⟩
  · split
    · exact ⟨_, rfl⟩
    · rename_i h2
      rw [if_pos (by by_contra h3; exact h2 (.inl (by omega)))]
      exact ⟨_, rfl⟩

/-- What a consistent state keeps when only the fault, the refusal, the history and the draws change. -/
theorem Consistent.of_mark {s : State} (hs : Consistent s) (f : Option Fault) (r : Option RefusalMark) (h : List Event) (d : Nat) :
    Consistent { s with fault := f, refused := r, history := h, draws := d } :=
  ⟨hs.sync, hs.budget, hs.result, hs.call, hs.mem, hs.fetch, hs.clear, hs.cerr⟩

/-- A run of one step more. -/
theorem run_succ (n : Nat) (s t : State) (h : step s = .next t) : core.run (n + 1) s = core.run n t := by
  have key : ∀ (M : Host.Core) (n : Nat) (s t : M.State), M.step s = .next t → M.run (n + 1) s = M.run n t := by
    intro M n s t h; simp only [Host.Core.run, h]
  exact key core n s t h

end Sys2Proof.Machine
end

