-- ==== Sys2Proof/Laws/Flags.lean ====
section
/-! SUPPORT. The decoder's functions as words, by shift and mask (30 R84; 41 R140 to R142). -/

namespace Sys2Proof.Machine

/-- RFD as a word is `(w >> 8) & 1` (41 R140). -/
theorem boolWord_rfd (w : Word) : boolWord (rfd w) = (w >>> 8) &&& 1 := by
  rw [show (1 : Word) = 1#32 from rfl, BitVec.and_one_eq_setWidth_ofBool_getLsbD, BitVec.getLsbD_ushiftRight]
  show boolWord (w.getLsbD 8) = _
  cases w.getLsbD (8 + 0) <;> rfl

/-- CSTATE as a word is `(w >> 9) & 0xF` (41 R141). -/
theorem setWidth_cstate (w : Word) : (cstate w).setWidth 32 = (w >>> 9) &&& 0xF := by
  apply BitVec.eq_of_getLsbD_eq
  intro i hi
  simp only [cstate, BitVec.getLsbD_setWidth, BitVec.getLsbD_extractLsb', BitVec.getLsbD_and, BitVec.getLsbD_ushiftRight, hi,
    decide_true, Bool.true_and]
  by_cases h : i < 4
  · interval_cases i <;> simp
  · rw [show decide (i < 4) = false by simpa using h, Bool.false_and]
    interval_cases i <;> simp_all

/-- ISREADY as a word (41 R142). -/
theorem boolWord_isReady (w : Word) :
    boolWord (isReady w) = if (w >>> 8) &&& 1 = 1 ∧ (w >>> 9) &&& 0xF ≠ 7 then 1 else 0 := by
  rw [← boolWord_rfd, ← setWidth_cstate]
  have h1 : (boolWord (rfd w) = 1) ↔ rfd w = true := by cases rfd w <;> simp [boolWord]
  have h2 : ((cstate w).setWidth 32 = (7 : Word)) ↔ cstate w = 7 := by
    constructor
    · intro h
      have := congrArg BitVec.toNat h
      apply BitVec.eq_of_toNat_eq
      have hc := (cstate w).isLt
      simp only [BitVec.toNat_setWidth] at this
      rw [Nat.mod_eq_of_lt (by omega)] at this
      simpa using this
    · intro h; rw [h]; decide
  have h3 : isReady w = true ↔ (boolWord (rfd w) = 1 ∧ (cstate w).setWidth 32 ≠ (7 : Word)) := by
    rw [h1, ne_eq, h2]
    rw [isReady, Bool.and_eq_true]
    exact and_congr_right (fun _ => decide_eq_true_iff)
  by_cases hr : isReady w = true
  · rw [if_pos (h3.mp hr), hr]; rfl
  · rw [if_neg (fun h => hr (h3.mpr h)), show isReady w = false by simpa using hr]; rfl

end Sys2Proof.Machine
end

