-- ==== Sys2Proof/Laws/History.lean ====
section
/-! SUPPORT. The small lemmas of the counts and the stages of an invocation (42 R175 to R177). -/

namespace Sys2Proof.Machine

/-! ### Since the last START -/

theorem sinceStart_append (h es : List Event) (he : ∀ e ∈ es, isStart e = false) :
    sinceStart (h ++ es) = sinceStart h ++ es := by
  unfold sinceStart
  rw [List.reverse_append, List.takeWhile_append_of_pos]
  · simp
  · intro e hm
    rw [he e (List.mem_reverse.mp hm)]; rfl

theorem sinceStart_start (h : List Event) (dst : Fin 32) (arg : Word) : sinceStart (h ++ [.req (.ensureReady dst arg)]) = [] := by
  unfold sinceStart
  simp [isStart]

theorem traceIssue_isStart (c : Params) (img : Image) : ∀ e ∈ traceIssue c img, isStart e = false := by
  unfold traceIssue; split <;> simp [isStart]

theorem traceResult_isStart (c : Params) (a : Answer) : ∀ e ∈ traceResult c a, isStart e = false := by
  unfold traceResult; split <;> simp [isStart]

/-- A trace is no issue, delay, Done, request or answer. -/
theorem traceIssue_counts (c : Params) (img : Image) :
    (traceIssue c img).countP isPollIssue = 0 ∧ (traceIssue c img).countP isDelayReq = 0 ∧ (traceIssue c img).countP isDone = 0 ∧
      (traceIssue c img).countP (isAdmittedReq c) = 0 ∧ (traceIssue c img).countP isAnswer = 0 := by
  unfold traceIssue; split <;> exact ⟨rfl, rfl, rfl, rfl, rfl⟩

theorem traceResult_counts (c : Params) (a : Answer) :
    (traceResult c a).countP isPollIssue = 0 ∧ (traceResult c a).countP isDelayReq = 0 ∧ (traceResult c a).countP isDone = 0 ∧
      (traceResult c a).countP (isAdmittedReq c) = 0 ∧ (traceResult c a).countP isAnswer = 0 := by
  unfold traceResult; split <;> exact ⟨rfl, rfl, rfl, rfl, rfl⟩

theorem answerEvents_counts (c : Params) (img : Image) (a : Answer) :
    (answerEvents c img a).countP isPollIssue = 0 ∧ (answerEvents c img a).countP isDelayReq = 0 ∧
      (answerEvents c img a).countP isDone = 0 ∧ (answerEvents c img a).countP (isAdmittedReq c) = 0 ∧
      (answerEvents c img a).countP isAnswer = 1 := by
  obtain ⟨h1, h2, h3, h4, h5⟩ := traceResult_counts c a
  unfold answerEvents answerEvent
  cases a.err <;> simp only [List.countP_cons, h1, h2, h3, h4, h5] <;> exact ⟨rfl, rfl, rfl, rfl, rfl⟩

/-- The events of the requests that end in their own step are no event of an invocation. -/
theorem localEvents_counts (c : Params) (es : List Event) (h : es.all isLocalEvent = true) :
    es.countP isPollIssue = 0 ∧ es.countP isDelayReq = 0 ∧ es.countP isDone = 0 ∧ es.countP (isAdmittedReq c) = 0 ∧
      es.countP isAnswer = 0 ∧ ∀ e ∈ es, isStart e = false := by
  have hl : ∀ e ∈ es, isLocalEvent e = true := List.all_eq_true.mp h
  simp only [List.countP_eq_zero]
  refine ⟨?_, ?_, ?_, ?_, ?_, ?_⟩ <;> intro e he <;> have := hl e he <;> cases e <;>
    first
    | (cases this; done)
    | exact Bool.false_ne_true
    | rfl
    | (rename_i i; cases i <;> first | rfl | (cases this))

/-! ### The stages -/

theorem stageOf_append (c : Params) (h es : List Event) (st : Stage) (e : stageOf c h = some st) :
    stageOf c (h ++ es) = es.foldlM (stageAfter c) st := by
  unfold stageOf at *
  rw [List.foldlM_append, e]; rfl

theorem stage_cons (c : Params) (st st' : Stage) (e : Event) (es : List Event) (h : stageAfter c st e = some st') :
    (e :: es).foldlM (stageAfter c) st = es.foldlM (stageAfter c) st' := by
  rw [List.foldlM_cons, h]; rfl

theorem stage_traceIssue (c : Params) (img : Image) (st : Stage) : (traceIssue c img).foldlM (stageAfter c) st = some st := by
  unfold traceIssue; split
  · cases st <;> rfl
  · rfl

theorem stage_traceResult (c : Params) (a : Answer) (st : Stage) (es : List Event) :
    (traceResult c a ++ es).foldlM (stageAfter c) st = es.foldlM (stageAfter c) st := by
  have : (traceResult c a).foldlM (stageAfter c) st = some st := by
    unfold traceResult; split
    · cases st <;> rfl
    · rfl
  rw [List.foldlM_append, this]; rfl

/-- The events of the requests that end in their own step leave the stage idle. -/
theorem stage_local (c : Params) (es : List Event) (h : es.all isLocalEvent = true) :
    es.foldlM (stageAfter c) .idle = some .idle := by
  induction es with
  | nil => rfl
  | cons e es ih =>
    simp only [List.all_cons, Bool.and_eq_true] at h
    have : stageAfter c .idle e = some .idle := by
      cases e <;> try (first | rfl | (cases h.1))
      rename_i i
      cases i <;> first | rfl | (cases h.1)
    rw [stage_cons _ _ _ _ _ this]; exact ih h.2

theorem stageAfter_issue (c : Params) (n : Nat) (img : Image) (h : n < Config.maxAttempts) :
    stageAfter c (.issue n) (.xferReq .poll img) = some (.waiting (n + 1)) := if_pos h
theorem stageAfter_err (c : Params) (n : Nat) (code : Word) :
    stageAfter c (.waiting n) (.xferErr code) = some (.ending .transport (some code)) := rfl
theorem stageAfter_ready (c : Params) (n : Nat) (img : Image) (h : isReady (respOf c img).r0 = true) :
    stageAfter c (.waiting n) (.xferOk img) = some (.ending .ok none) := if_pos h
theorem stageAfter_notReady (c : Params) (n : Nat) (img : Image) (h : isReady (respOf c img).r0 = false) :
    stageAfter c (.waiting n) (.xferOk img) = some (.notReady n) := if_neg (by simp [h])
theorem stageAfter_delayReq (c : Params) (n : Nat) :
    stageAfter c (.notReady n) (.delayReq Config.pollDelayMs) = some (.delay n) :=
  (show stageAfter c (.notReady n) (.delayReq Config.pollDelayMs) =
    if Config.pollDelayMs = Config.pollDelayMs then some (.delay n) else none from rfl).trans (if_pos rfl)
theorem stageAfter_last (c : Params) (n : Nat) (h : n = Config.maxAttempts) (hd : c.delayAfterLast = false) :
    stageAfter c (.notReady n) (.done .timeout none) = some .idle := if_pos ⟨h, hd, rfl, rfl⟩
theorem stageAfter_delayNext (c : Params) (n : Nat) (h : n < Config.maxAttempts) :
    stageAfter c (.delay n) .delayDone = some (.issue n) := if_pos h
theorem stageAfter_delayLast (c : Params) (n : Nat) (h : ¬ n < Config.maxAttempts) :
    stageAfter c (.delay n) .delayDone = some (.ending .timeout none) := if_neg h
theorem stageAfter_done (c : Params) (r : OpResult) (code : Option Word) :
    stageAfter c (.ending r code) (.done r code) = some .idle := if_pos ⟨rfl, rfl⟩

end Sys2Proof.Machine
end

