-- ==== Sys2Proof/Laws/PerInstr.lean ====
section
/-! SUPPORT. Statements made for every instruction, one lemma per constructor. EncodedLength: a request is as many words as its row
of 30 R87 says, and the OPSEL of its first word alone tells that number; the three rows of the transport have no frame. -/

namespace Sys2Proof.Laws.EncodedLength

open Sys2Proof Sys2Proof.Machine

/-- The words of the instruction's frame are as many as its row says, and OPSEL tells how many. -/
def Statement (i : Instr) : Prop :=
  (frameWords i).length = frameLength i ∧
    (isRequest i = true → ((frameWords i).head?.bind fun h => opselLength (hdrOpsel h)) = some (frameLength i)) ∧
    (isRequest i = false → frameWords i = [])

/-- The length OPSEL tells is that of the header's OPSEL. -/
theorem opselLength_header (o d s : Nat) (ho : o < 256) (hd : d < 256) (hs : s < 256) :
    opselLength (hdrOpsel (header o d s)) = opselLength o := by
  rw [(header_fields o d s ho hd hs).1]

theorem halt : Statement .halt :=
  ⟨rfl, fun _ => opselLength_header 0x0 0 0 (by omega) (by omega) (by omega), (fun h => nomatch h)⟩

theorem build (dst : Fin 16) (opcode argument flags : Word) : Statement (.build dst opcode argument flags) :=
  ⟨rfl, fun _ => opselLength_header 0x1 dst 0 (by omega) (by omega) (by omega), (fun h => nomatch h)⟩

theorem withTimeout (dst src : Fin 16) (cmdMs dataNs : Word) : Statement (.withTimeout dst src cmdMs dataNs) :=
  ⟨rfl, fun _ => opselLength_header 0x2 dst src (by omega) (by omega) (by omega), (fun h => nomatch h)⟩

theorem withData (dst src : Fin 16) (addr : DWord) (blockCount blockSize : Word) : Statement (.withData dst src addr blockCount blockSize) :=
  ⟨rfl, fun _ => opselLength_header 0x3 dst src (by omega) (by omega) (by omega), (fun h => nomatch h)⟩

theorem pack (dst : Fin 16) (fields : Fields) : Statement (.pack dst fields) :=
  ⟨rfl, fun _ => opselLength_header 0x4 dst 0 (by omega) (by omega) (by omega), (fun h => nomatch h)⟩

theorem unpack (dst : Fin 32) (src : Fin 16) : Statement (.unpack dst src) :=
  ⟨rfl, fun _ => opselLength_header 0x5 dst src (by omega) (by omega) (by omega), (fun h => nomatch h)⟩

theorem rfd (dst src : Fin 32) : Statement (.rfd dst src) :=
  ⟨rfl, fun _ => opselLength_header 0x10 dst src (by omega) (by omega) (by omega), (fun h => nomatch h)⟩

theorem cstate (dst src : Fin 32) : Statement (.cstate dst src) :=
  ⟨rfl, fun _ => opselLength_header 0x11 dst src (by omega) (by omega) (by omega), (fun h => nomatch h)⟩

theorem isReady (dst src : Fin 32) : Statement (.isReady dst src) :=
  ⟨rfl, fun _ => opselLength_header 0x12 dst src (by omega) (by omega) (by omega), (fun h => nomatch h)⟩

theorem ensureReady (dst : Fin 32) (argument : Word) : Statement (.ensureReady dst argument) :=
  ⟨rfl, fun _ => opselLength_header 0x20 dst 0 (by omega) (by omega) (by omega), (fun h => nomatch h)⟩

theorem readStatus (dst : Fin 32) (reg : Fin 8) : Statement (.readStatus dst reg) :=
  ⟨rfl, fun _ => opselLength_header 0x21 dst reg (by omega) (by omega) (by omega), (fun h => nomatch h)⟩

theorem execute (dst : Fin 32) (src : Fin 16) : Statement (.execute dst src) :=
  ⟨rfl, fun _ => opselLength_header 0x22 dst src (by omega) (by omega) (by omega), (fun h => nomatch h)⟩

theorem zeroBuf : Statement .zeroBuf :=
  ⟨rfl, fun _ => opselLength_header 0x23 0 0 (by omega) (by omega) (by omega), (fun h => nomatch h)⟩

theorem readBuf (dst : Fin 32) (offset : Word) : Statement (.readBuf dst offset) :=
  ⟨rfl, fun _ => opselLength_header 0x24 dst 0 (by omega) (by omega) (by omega), (fun h => nomatch h)⟩

theorem movi (dst : Fin 32) (value : Word) : Statement (.movi dst value) :=
  ⟨rfl, fun _ => opselLength_header 0x25 dst 0 (by omega) (by omega) (by omega), (fun h => nomatch h)⟩

theorem jz (src : Fin 32) (target : Word) : Statement (.jz src target) :=
  ⟨rfl, fun _ => opselLength_header 0x26 0 src (by omega) (by omega) (by omega), (fun h => nomatch h)⟩

theorem jnz (src : Fin 32) (target : Word) : Statement (.jnz src target) :=
  ⟨rfl, fun _ => opselLength_header 0x27 0 src (by omega) (by omega) (by omega), (fun h => nomatch h)⟩

theorem fetchExtcsd (dst : Fin 32) : Statement (.fetchExtcsd dst) :=
  ⟨rfl, fun _ => opselLength_header 0x30 dst 0 (by omega) (by omega) (by omega), (fun h => nomatch h)⟩

theorem sendStatusDesc (argument : Word) (response : Resp) : Statement (.sendStatusDesc argument response) :=
  ⟨rfl, (fun h => nomatch h), fun _ => rfl⟩

theorem sendExtCsdDesc (response : Resp) (pointer : DWord) : Statement (.sendExtCsdDesc response pointer) :=
  ⟨rfl, (fun h => nomatch h), fun _ => rfl⟩

theorem mmcControlCall : Statement .mmcControlCall := ⟨rfl, (fun h => nomatch h), fun _ => rfl⟩

end Sys2Proof.Laws.EncodedLength
end

