-- ==== Sys2Proof/Tests/Slice0.lean ====
section
/-! SUPPORT. Tests of single operations and steps against the spec's own vectors (spec/95_test_vectors.md; each test names its row),
the smoke test of `WellFormed`, and one witness for each statement that has hypotheses. -/

namespace Sys2Proof.Tests

set_option Elab.async false

open Sys2Proof Sys2Proof.Machine

/-! ### Helpers -/

/-- The premises of 95: the default configuration, STATUS_ARG = 0x00010000, BUF_ADDR = 0x00007F0000001000. -/
def c0 : Params := ⟨.little, .abi, true, 0x00010000, 0x00007F0000001000, 0, [5, 13]⟩
def cBig : Params := { c0 with endian := .big }
def cLit : Params := { c0 with layout := .literal }
def cLitBig : Params := { c0 with endian := .big, layout := .literal }
def cNoDelay : Params := { c0 with delayAfterLast := false }

/-- BUF_ADDR. -/
def B : DWord := 0x00007F0000001000

/-- An image from its rows of eight bytes, all other bytes zero. -/
def rows (rs : List (Nat × List Nat)) : Image :=
  rs.foldl (fun img r => setBytes img r.1 (r.2.map (BitVec.ofNat 8))) zeros72

def vc1 : Image := rows [(8, [0x0D, 0, 0, 0, 0, 0, 1, 0]), (32, [0x15, 0, 0, 0, 0, 0, 0, 0])]
def vc2 : Image :=
  rows [(8, [8, 0, 0, 0, 0, 0, 0, 0]), (32, [0x35, 0, 0, 0, 0, 2, 0, 0]), (40, [1, 0, 0, 0, 0, 0, 0, 0]),
    (64, [0, 0x10, 0, 0, 0, 0x7F, 0, 0])]
def vc4 : Image :=
  rows [(8, [0x0D, 0, 0, 0, 0, 0, 1, 0]), (32, [0x15, 0, 0, 0, 0, 0, 0, 0]), (48, [0, 0, 0, 0, 0x40, 0x4B, 0x4C, 0]),
    (56, [0xE8, 3, 0, 0, 0, 0, 0, 0])]
def vc7f : Fields :=
  ⟨1, 0x11111111, 0x22222222, ⟨0x33333333, 0x44444444, 0x55555555, 0x66666666⟩, 0x77777777, 0x88888888, 0x99999999,
    0xAAAAAAAA, 0xBBBBBBBB, 0xCCCCCCCC, 0xDDDDDDDD, 0x0FFFFFFFEEEEEEE8⟩

/-- The CMD8 of 95 L2.5: S8(p, n, s). -/
def s8 (c : Params) (p : DWord) (n s : Word) : Image := withDataImg c (buildImg c 8 0 0x35) p n s

/-- A state right after boot with the program given. -/
def boot0 (program : List Word) : State := { resetWith c0 with program := program }

/-- The next state, or the state itself where there is none. -/
def after (o : Host.Outcome State Fault Refusal) (s : State) : State :=
  match o with
  | .next t => t
  | .fault _ => s
  | .refused _ => s

def isNext (o : Host.Outcome State Fault Refusal) : Bool :=
  match o with
  | .next _ => true
  | .fault _ => false
  | .refused _ => false

/-- An outcome that is a next state is the next state `after` gives. -/
theorem next_after (o : Host.Outcome State Fault Refusal) (s : State) (h : isNext o = true) : o = .next (after o s) := by
  cases o with
  | next t => rfl
  | fault f => cases h
  | refused r => cases h

/-- The state after a step. -/
def stepped (s : State) : State := after (step s) s

/-- An answer Ok([w, 0, 0, 0]), and an answer Err(c), with the drawn bytes b_i = i mod 256. -/
def ok (w : Word) : Answer := ⟨none, ⟨w, 0, 0, 0⟩, fun i => BitVec.ofNat 8 i⟩
def err (c : Word) : Answer := ⟨some c, ⟨0, 0, 0, 0⟩, fun i => BitVec.ofNat 8 i⟩

/-! ### WellFormed refuses each ill-formed term (30 R89) -/

theorem test_wf_unpack_base : Instr.wellFormed (.unpack 17 0) = false ∧ Instr.wellFormed (.unpack 16 15) = true := by decide
theorem test_wf_read_status_cd : Instr.wellFormed (.readStatus 16 7) = false ∧ Instr.wellFormed (.readStatus 15 7) = true ∧
    Instr.wellFormed (.readStatus 16 2) = true := by decide
theorem test_wf_read_buf_offset : Instr.wellFormed (.readBuf 1 510) = false ∧ Instr.wellFormed (.readBuf 1 512) = false ∧
    Instr.wellFormed (.readBuf 1 508) = true := by decide

/-! ### Encodings: V-E1, V-E2 of 95 L2.2 -/

theorem test_decode_halt : decodeFrame [0x00000000] = .ok (.halt, []) := by decide
theorem test_decode_build : decodeFrame [0x00000101, 8, 0, 0x35, 9] = .ok (.build 1 8 0 0x35, [9]) := by decide
theorem test_decode_with_timeout : decodeFrame [0x00000102, 0x3E8, 0x4C4B40] = .ok (.withTimeout 1 0 1000 5000000, []) := by decide
theorem test_decode_with_data : decodeFrame [0x00010103, 0x00001000, 0x00007F00, 1, 0x200] = .ok (.withData 1 1 B 1 512, []) := by
  decide
theorem test_decode_pack :
    decodeFrame [0x00000204, 1, 0x11111111, 0x22222222, 0x33333333, 0x44444444, 0x55555555, 0x66666666, 0x77777777, 0x88888888,
      0x99999999, 0xAAAAAAAA, 0xBBBBBBBB, 0xCCCCCCCC, 0xDDDDDDDD, 0xEEEEEEE8, 0x0FFFFFFF] = .ok (.pack 2 vc7f, []) := by decide
theorem test_decode_unpack : decodeFrame [0x000F1005] = .ok (.unpack 16 15, []) := by decide
theorem test_decode_rfd : decodeFrame [0x00000110] = .ok (.rfd 1 0, []) := by decide
theorem test_decode_cstate : decodeFrame [0x00000211] = .ok (.cstate 2 0, []) := by decide
theorem test_decode_isready : decodeFrame [0x001E1F12] = .ok (.isReady 31 30, []) := by decide
theorem test_decode_ensure_ready : decodeFrame [0x00000020, 0x00010000] = .ok (.ensureReady 0 0x00010000, []) := by decide
theorem test_decode_read_status : decodeFrame [0x00020521] = .ok (.readStatus 5 2, []) ∧
    decodeFrame [0x00070F21] = .ok (.readStatus 15 7, []) ∧ decodeFrame [0x00021021] = .ok (.readStatus 16 2, []) := by decide
theorem test_decode_execute : decodeFrame [0x00020322] = .ok (.execute 3 2, []) := by decide
theorem test_decode_zero_buf : decodeFrame [0x00000023] = .ok (.zeroBuf, []) := by decide
theorem test_decode_read_buf : decodeFrame [0x00000124, 0x1FC] = .ok (.readBuf 1 508, []) := by decide
theorem test_decode_movi : decodeFrame [0x00000125, 0xE00] = .ok (.movi 1 0xE00, []) := by decide
theorem test_decode_jz : decodeFrame [0x00140026, 0] = .ok (.jz 20 0, []) := by decide
theorem test_decode_jnz : decodeFrame [0x00000027, 12] = .ok (.jnz 0 12, []) := by decide
theorem test_decode_fetch_extcsd : decodeFrame [0x00000030] = .ok (.fetchExtcsd 0, []) := by decide
/-- V-C1, V-C2 and V-C3 as descriptor images (30 R81, R82), and F-CTL (30 R83). -/
theorem test_decode_send_status_desc : decodeImage c0 vc1 = .sendStatusDesc 0x00010000 ⟨0, 0, 0, 0⟩ := by decide +kernel
theorem test_decode_send_ext_csd_desc : decodeImage c0 vc2 = .sendExtCsdDesc ⟨0, 0, 0, 0⟩ B := by decide +kernel
theorem test_decode_control_call : decodeCall 0xB300 = .ok .mmcControlCall ∧ decodeCall 0xB301 = .error .unknownCall ∧
    decodeImage c0 zeros72 = .mmcControlCall := by decide +kernel

/-- The name under which a frame is rejected. -/
def rejected (ws : List Word) : Option Reject :=
  match decodeFrame ws with
  | .ok _ => none
  | .error e => some e

/-- V-E2: each frame is rejected, by the name of the condition it breaks. -/
theorem test_decode_rejects :
    [[0x01000001, 0, 0, 0], [0x00000006], [0x000000FF], [0x00000100], [0x00010023], [0x00001001, 0, 0, 0], [0x00002025, 0],
      [0x00001105], [0x00080021], [0x00071021], [0x00000124, 0x1FE], [0x00000124, 0x200], [0x00000126, 0], [0x00000025], []].map
        rejected =
      [.headerHigh, .unknownOpsel, .unknownOpsel, .fieldNotZero, .fieldNotZero, .cdRange, .cwRange, .unpackBase, .regRange,
        .cdRange, .bufOffset, .bufOffset, .fieldNotZero, .truncated, .pastEnd].map some := by decide

/-- The host's view: the word of V-E1 for EXECUTE, and the control call. -/
theorem test_decode_table_word : decodeTableWord 32 0x00020322 = some (.execute 3 2) ∧
    decodeTableWord 16 0xB300 = some .mmcControlCall := by decide +kernel

/-- 95 P1's assembly (30 R91). -/
theorem test_assembly : asmParts (.withTimeout 1 0 1000 5000000) = ("WITH_TIMEOUT", ["cd1", "cd0", "1000", "5000000"]) ∧
    asmParts (.readStatus 0 7) = ("READ_STATUS", ["cd0", "7"]) := by decide +kernel

/-! ### CODEC: 95 L2.1 -/

/-- V-C1 in the four configurations. -/
theorem test_build_images :
    buildImg c0 13 0x00010000 0x15 = vc1 ∧
      buildImg cBig 13 0x00010000 0x15 = rows [(8, [0, 0, 0, 0x0D, 0, 1, 0, 0]), (32, [0, 0, 0, 0x15, 0, 0, 0, 0])] ∧
      buildImg cLit 13 0x00010000 0x15 =
        rows [(0, [0, 0, 0, 0, 0x0D, 0, 0, 0]), (8, [0, 0, 1, 0, 0, 0, 0, 0]), (24, [0, 0, 0, 0, 0x15, 0, 0, 0])] ∧
      buildImg cLitBig 13 0x00010000 0x15 =
        rows [(0, [0, 0, 0, 0, 0, 0, 0, 0x0D]), (8, [0, 1, 0, 0, 0, 0, 0, 0]), (24, [0, 0, 0, 0, 0, 0, 0, 0x15])] := by
  decide +kernel

/-- V-C3: all ones; and a BUILD over an image that held a value leaves no byte of it. -/
theorem test_build_replaces :
    buildImg c0 0xFFFFFFFF 0xFFFFFFFF 0xFFFFFFFF =
        rows [(8, [255, 255, 255, 255, 255, 255, 255, 255]), (32, [255, 255, 255, 255, 0, 0, 0, 0])] ∧
      (after (exec (.build 0 13 0x00010000 0x15) { boot0 [] with cd := Vector.replicate 16 (some vc4) }) (boot0 [])).cd[0] =
        some vc1 := by decide +kernel

/-- V-C4 and V-C6: the timeouts, and back with zeros. -/
theorem test_with_timeout : withTimeoutImg c0 vc1 1000 5000000 = vc4 ∧ withTimeoutImg c0 vc4 0 0 = vc1 := by decide +kernel

/-- V-C4 in the LITERAL layout, through the request, in place. -/
theorem test_with_timeout_literal :
    getField cLit (withTimeoutImg cLit (buildImg cLit 13 0x00010000 0x15) 1000 5000000) .cmdTimeout = 1000 ∧
      withTimeoutImg cLit (buildImg cLit 13 0x00010000 0x15) 1000 5000000 =
        rows [(0, [0, 0, 0, 0, 0x0D, 0, 0, 0]), (8, [0, 0, 1, 0, 0, 0, 0, 0]), (24, [0, 0, 0, 0, 0x15, 0, 0, 0]),
          (48, [0x40, 0x4B, 0x4C, 0, 0xE8, 3, 0, 0])] := by decide +kernel

/-- V-C2 in ABI LITTLE and LITERAL BIG. -/
theorem test_with_data_images : s8 c0 B 1 512 = vc2 ∧ sendExtCsdImg c0 B = vc2 ∧
    s8 cLitBig B 1 512 = rows [(0, [0, 0, 0, 0, 0, 0, 0, 8]), (24, [0, 0, 0, 0, 0, 0, 0, 0x35]), (32, [0, 0, 2, 0, 0, 0, 0, 1]),
      (64, [0, 0, 0x7F, 0, 0, 0, 0x10, 0])] := by decide +kernel

/-- V-C6: the data phase is detached; a misaligned pointer is stored as given. -/
theorem test_with_data_corners : withDataImg c0 vc2 0 0 0 = buildImg c0 8 0 0x35 ∧
    ptrOf c0 (withDataImg c0 vc1 0x00007F0000001004 1 512) = 0x00007F0000001004 := by decide +kernel

/-- V-C7, ABI LITTLE and LITERAL LITTLE. -/
theorem test_pack_images :
    packImg c0 vc7f = rows [(0, [1, 0, 0, 0, 0, 0, 0, 0]), (8, [0x11, 0x11, 0x11, 0x11, 0x22, 0x22, 0x22, 0x22]),
        (16, [0x33, 0x33, 0x33, 0x33, 0x44, 0x44, 0x44, 0x44]), (24, [0x55, 0x55, 0x55, 0x55, 0x66, 0x66, 0x66, 0x66]),
        (32, [0x77, 0x77, 0x77, 0x77, 0x88, 0x88, 0x88, 0x88]), (40, [0x99, 0x99, 0x99, 0x99, 0xAA, 0xAA, 0xAA, 0xAA]),
        (48, [0xBB, 0xBB, 0xBB, 0xBB, 0xCC, 0xCC, 0xCC, 0xCC]), (56, [0xDD, 0xDD, 0xDD, 0xDD, 0, 0, 0, 0]),
        (64, [0xE8, 0xEE, 0xEE, 0xEE, 0xFF, 0xFF, 0xFF, 0x0F])] ∧
      packImg cLit vc7f = rows [(0, [1, 0, 0, 0, 0x11, 0x11, 0x11, 0x11]), (8, [0x22, 0x22, 0x22, 0x22, 0x33, 0x33, 0x33, 0x33]),
        (16, [0x44, 0x44, 0x44, 0x44, 0x55, 0x55, 0x55, 0x55]), (24, [0x66, 0x66, 0x66, 0x66, 0x77, 0x77, 0x77, 0x77]),
        (32, [0x88, 0x88, 0x88, 0x88, 0x99, 0x99, 0x99, 0x99]), (40, [0xAA, 0xAA, 0xAA, 0xAA, 0xBB, 0xBB, 0xBB, 0xBB]),
        (48, [0xCC, 0xCC, 0xCC, 0xCC, 0xDD, 0xDD, 0xDD, 0xDD]), (64, [0xE8, 0xEE, 0xEE, 0xEE, 0xFF, 0xFF, 0xFF, 0x0F])] := by
  decide +kernel

/-- V-C7, ABI BIG: the two rows that differ. -/
theorem test_pack_big : get32 .little (packImg cBig vc7f) 0 = 0x01000000 ∧
    get64 .little (packImg cBig vc7f) 64 = 0xE8EEEEEEFFFFFF0F := by decide +kernel

/-- V-C9: UNPACK of V-C1 at DST = 16, the last base allowed. -/
theorem test_unpack :
    (after (exec (.unpack 16 3) { boot0 [] with cd := Vector.replicate 16 (some vc1) }) (boot0 [])).cw.toList =
      List.replicate 16 none ++ ([0, 13, 0x00010000, 0, 0, 0, 0, 0x15, 0, 0, 0, 0, 0, 0, 0, 0] : List Word).map some := by
  decide +kernel

/-- V-C8 and V-C10: unpack after pack; a reserved byte does not survive pack after unpack. -/
theorem test_unpack_laws : unpackImg c0 (packImg c0 vc7f) = vc7f ∧
    packImg c0 (unpackImg c0 (setBytes vc1 4 [0xAB])) = vc1 := by decide +kernel

/-- V-C12: setResp, ABI LITTLE and BIG. -/
theorem test_set_resp :
    setResp c0 vc1 ⟨0x900, 1, 2, 3⟩ = rows [(8, [0x0D, 0, 0, 0, 0, 0, 1, 0]), (16, [0, 9, 0, 0, 1, 0, 0, 0]),
        (24, [2, 0, 0, 0, 3, 0, 0, 0]), (32, [0x15, 0, 0, 0, 0, 0, 0, 0])] ∧
      setResp cBig (buildImg cBig 13 0x00010000 0x15) ⟨0x900, 1, 2, 3⟩ = rows [(8, [0, 0, 0, 0x0D, 0, 1, 0, 0]),
        (16, [0, 0, 9, 0, 0, 0, 0, 1]), (24, [0, 0, 0, 2, 0, 0, 0, 3]), (32, [0, 0, 0, 0x15, 0, 0, 0, 0])] := by
  decide +kernel

/-! ### DECODER: V-D1, all 22 words, as (word, rfd, cstate, is_ready) -/

theorem test_decoder_words :
    ([(0x00000000, 0, 0, 0), (0xFFFFFFFF, 1, 15, 1), (0x00000100, 1, 0, 1), (0x00000900, 1, 4, 1), (0x00000B00, 1, 5, 1),
      (0x00000D00, 1, 6, 1), (0x00000E00, 0, 7, 0), (0x00000F00, 1, 7, 0), (0x00001E00, 0, 15, 0), (0x00001F00, 1, 15, 1),
      (0x00002000, 0, 0, 0)] : List (Word × Word × Word × Word)).all
        (fun r => decide (boolWord (rfd r.1) = r.2.1 ∧ (cstate r.1).setWidth 32 = r.2.2.1 ∧ boolWord (isReady r.1) = r.2.2.2)) = true ∧
    ([(0x00001100, 1, 8, 1), (0x00001000, 0, 8, 0), (0x00000200, 0, 1, 0), (0x00000300, 1, 1, 1), (0x00000500, 1, 2, 1),
      (0x00000700, 1, 3, 1), (0xFFFFFEFF, 0, 15, 0), (0xFFFFE1FF, 1, 0, 1), (0x80000900, 1, 4, 1), (0x000000FF, 0, 0, 0),
      (0x0000EF00, 1, 7, 0)] : List (Word × Word × Word × Word)).all
        (fun r => decide (boolWord (rfd r.1) = r.2.1 ∧ (cstate r.1).setWidth 32 = r.2.2.1 ∧ boolWord (isReady r.1) = r.2.2.2)) = true := by
  decide +kernel

/-- 95 P1, words 8, 9 and 12: CSTATE, RFD and ISREADY through the requests. -/
theorem test_decoder_requests :
    let s : State := { boot0 [] with cw := (Vector.replicate 32 none).set 20 (some 0x900) |>.set 24 (some 0xF00) }
    (after (exec (.cstate 22 20) s) s).cw[22] = some 4 ∧ (after (exec (.rfd 23 20) s) s).cw[23] = some 1 ∧
      (after (exec (.isReady 25 24) s) s).cw[25] = some 0 := by decide +kernel

/-! ### POLL: 95 L2.4 -/

/-- POLL after the START of ENSURE_READY(0x00010000), and with the ATTEMPTS-th answer outstanding. -/
def started : PollRegs := pollStart pollReset 0x00010000
def waiting (n : Word) : PollRegs := { started with phase := .waitRsp, attempts := n, pdesc := some vc1 }

/-- V-P1, line 2: START from reset. -/
theorem test_poll_start : pollStep c0 0 pollReset true (.start 0x00010000) =
    .ok (some ⟨⟨.checking, .issue, 0, some 0x00010000, none, .none, none, none⟩, true, [], none⟩) := by decide +kernel

/-- V-P1, line 3, and V-P2: ISSUE; a second START while CHECKING. -/
theorem test_poll_issue_and_busy :
    pollStep c0 0 started true .issue = .ok (some ⟨waiting 1, true, [], none⟩) ∧
      pollStep c0 7 (waiting 1) true (.start 3) = .error (.startWhileBusy 7) := by decide +kernel

/-- Rows Q1, Q2 and Q6: ready, not ready, and a transport failure. -/
theorem test_poll_first_answer :
    pollStep c0 0 (waiting 1) true (.xferOk (setResp c0 vc1 ⟨0x900, 0, 0, 0⟩)) =
        .ok (some ⟨⟨.ready, .idle, 1, some 0x00010000, some 0x900, .ok, none, some (setResp c0 vc1 ⟨0x900, 0, 0, 0⟩)⟩, false,
          [.done .ok none], some (.ok, none)⟩) ∧
      (pollStep c0 0 (waiting 1) true (.xferOk (setResp c0 vc1 ⟨0xF00, 0, 0, 0⟩))).toOption.bind (·.map (·.events)) =
        some [.delayReq 20] ∧
      pollStep c0 0 (waiting 1) true (.xferErr 13) =
        .ok (some ⟨⟨.failed, .idle, 1, some 0x00010000, none, .transport, some 13, some vc1⟩, true,
          [.done .transport (some 13)], some (.transport, some 13)⟩) := by decide +kernel

/-- Rows Q3, Q4 and Q8: attempt 50, with the last delay and without, and ready on the last attempt. -/
theorem test_poll_last_attempt :
    (pollStep c0 0 (waiting 50) true (.xferOk (setResp c0 vc1 ⟨0xE00, 0, 0, 0⟩))).toOption.bind (·.map (·.regs.phase)) =
        some .delay ∧
      (pollStep cNoDelay 0 (waiting 50) true (.xferOk (setResp c0 vc1 ⟨0xF00, 0, 0, 0⟩))).toOption.bind (·.map (·.done)) =
        some (some (.timeout, none)) ∧
      (pollStep c0 0 (waiting 50) true (.xferOk (setResp c0 vc1 ⟨0x900, 0, 0, 0⟩))).toOption.bind (·.map (·.done)) =
        some (some (.ok, none)) := by decide +kernel

/-- Rows Q2 and Q3: DelayDone below the budget and at it; V-P4: no row in a terminal state or in ISSUE. -/
theorem test_poll_delay_done :
    pollStep c0 0 { waiting 49 with phase := .delay } true .delayDone = .ok (some ⟨{ waiting 49 with phase := .issue }, true, [], none⟩) ∧
      (pollStep c0 0 { waiting 50 with phase := .delay } true .delayDone).toOption.bind (·.map (·.regs.pstate)) = some .exhausted ∧
      pollStep c0 0 started true .delayDone = .ok none ∧
      pollStep c0 0 { waiting 1 with pstate := .ready, phase := .idle } false .issue = .ok none := by decide +kernel

/-- ENSURE_READY at reset: POLL is started and the client waits, CPC as it was. -/
theorem test_ensure_ready :
    let t := after (exec (.ensureReady 0 0x00010000) (boot0 [])) (boot0 [])
    t.poll = started ∧ t.client = .awaitDone 0 ∧ t.cpc = 0 := by decide +kernel

/-- A Done completes ENSURE_READY: row Q6's code 3 in CW[DST], CPC past the two words. -/
theorem test_ensure_ready_done :
    let s : State := { boot0 [] with poll := waiting 1, port := ⟨some ⟨.poll, vc1⟩, true⟩, client := .awaitDone 4, cpc := 6 }
    let t := answerCall .poll vc1 (err 13) s
    t.cw[4] = some 3 ∧ t.cpc = 8 ∧ t.client = .ready ∧ t.poll.errcode = some 13 := by decide +kernel

/-- V-P5: the registers at reset and after row Q6, and PDESC without a value. -/
theorem test_read_status :
    let q6 : State := { boot0 [] with poll := ⟨.failed, .idle, 1, some 0x00010000, none, .transport, some 13, some vc1⟩ }
    (after (exec (.readStatus 0 0) (boot0 [])) (boot0 [])).cw[0] = some 0 ∧
      (after (exec (.readStatus 0 3) (boot0 [])) (boot0 [])).fault = some (.unwrittenRead (.reg 3)) ∧
      (after (exec (.readStatus 0 0) q6) q6).cw[0] = some 4 ∧ (after (exec (.readStatus 0 6) q6) q6).cw[0] = some 13 := by
  decide +kernel

theorem test_read_status_pdesc :
    (after (exec (.readStatus 0 7) (boot0 [])) (boot0 [])).fault = some (.unwrittenRead (.reg 7)) ∧
      (after (exec (.readStatus 9 7) { boot0 [] with poll := waiting 1 }) (boot0 [])).cd[9] = some vc1 := by decide +kernel

/-! ### The transport port: 95 L2.5 -/

/-- What admission decides, without the port it leaves. -/
def verdict (a : Admission) : Option Fault × Bool :=
  match a with
  | .admitted _ _ => (none, true)
  | .fault f => (some f, false)
  | .refused => (none, false)

/-- Rows A1 to A8. -/
theorem test_admission_rows :
    verdict (admission c0 ⟨none, true⟩ .poll vc1) = (none, true) ∧
      verdict (admission c0 ⟨none, true⟩ .client (s8 c0 B 1 512)) = (some (.busyHazard 8), false) ∧
      verdict (admission c0 ⟨none, false⟩ .client (s8 c0 B 1 512)) = (none, true) ∧
      verdict (admission c0 ⟨some ⟨.poll, vc1⟩, false⟩ .client vc1) = (some (.concurrentCommand .client vc1), false) ∧
      verdict (admission c0 ⟨none, false⟩ .client (s8 c0 (B + 4) 1 512)) = (some (.misalignedDataBuffer (B + 4)), false) ∧
      verdict (admission c0 ⟨none, false⟩ .client (s8 c0 (B + 8) 1 512)) = (some (.bufferOutOfRange (B.toNat + 8) 1 512), false) ∧
      verdict (admission c0 ⟨none, false⟩ .client (setBytes vc1 0 [1])) = (none, false) ∧
      verdict (admission c0 ⟨none, false⟩ .client (s8 c0 (B + 8) 1 504)) = (none, true) := by decide +kernel

/-- Rows A9 to A21. -/
theorem test_admission_corners :
    verdict (admission c0 ⟨none, false⟩ .client (s8 c0 (B - 8) 1 8)) = (some (.bufferOutOfRange (B.toNat - 8) 1 8), false) ∧
      verdict (admission c0 ⟨none, false⟩ .client (s8 c0 B 2 256)) = (none, true) ∧
      verdict (admission c0 ⟨none, false⟩ .client (s8 c0 B 0x80000000 2)) = (some (.bufferOutOfRange B.toNat 0x80000000 2), false) ∧
      verdict (admission c0 ⟨none, false⟩ .client (s8 c0 (B + 512) 1 0)) = (none, true) ∧
      verdict (admission c0 ⟨none, false⟩ .client (s8 c0 0 1 0)) = (some (.bufferOutOfRange 0 1 0), false) ∧
      verdict (admission c0 ⟨none, true⟩ .client (buildImg c0 8 0 0x35)) = (some (.busyHazard 8), false) ∧
      verdict (admission c0 ⟨none, false⟩ .client (withDataImg c0 vc1 3 0 0)) = (none, true) ∧
      verdict (admission c0 ⟨none, true⟩ .client (buildImg c0 6 0 0x15)) = (some (.busyHazard 6), false) ∧
      verdict (admission c0 ⟨none, false⟩ .client (buildImg c0 6 0 0x15)) = (none, true) ∧
      verdict (admission c0 ⟨some ⟨.client, vc1⟩, true⟩ .client (setBytes (s8 c0 (B + 4) 1 512) 0 [1])) =
        (some (.concurrentCommand .client (setBytes (s8 c0 (B + 4) 1 512) 0 [1])), false) ∧
      verdict (admission c0 ⟨none, true⟩ .client (setBytes (s8 c0 (B + 4) 1 512) 0 [1])) = (none, false) ∧
      verdict (admission c0 ⟨none, true⟩ .client (s8 c0 (B + 4) 1 1024)) = (some (.misalignedDataBuffer (B + 4)), false) ∧
      verdict (admission c0 ⟨none, true⟩ .client (s8 c0 (B + 8) 1 512)) = (some (.bufferOutOfRange (B.toNat + 8) 1 512), false) := by
  decide +kernel

/-- Row T1, with its traces at DIAG_LEVEL = 2. -/
theorem test_answer_to_poll :
    let c2 : Params := { c0 with diagLevel := 2 }
    let s : State := { resetWith c2 with poll := waiting 1, port := ⟨some ⟨.poll, vc1⟩, true⟩, client := .awaitDone 0 }
    let a : Answer := ⟨none, ⟨0x900, 1, 2, 3⟩, fun _ => 0⟩
    let t := answerCall .poll vc1 a s
    t.poll.pdesc = some (setResp c0 vc1 ⟨0x900, 1, 2, 3⟩) ∧ t.port = ⟨none, false⟩ ∧ t.mem = [] ∧
      t.history = [.xferOk (setResp c0 vc1 ⟨0x900, 1, 2, 3⟩), .traceResult none ⟨0x900, 1, 2, 3⟩, .done .ok none] := by
  decide +kernel

/-- Row T5: the bytes from B + 256 are drawn, those before stay without a value, and BUSY_HAZARD is set. -/
theorem test_answer_with_data :
    let img := s8 c0 (B + 256) 1 256
    let s : State := { boot0 [] with port := ⟨some ⟨.client, img⟩, false⟩, client := .awaitXfer 0 0 }
    let t := answerCall .client img (ok 0) s
    t.port = ⟨none, true⟩ ∧ memByte t.mem (B.toNat + 255) = none ∧ memByte t.mem (B.toNat + 256) = some 0 ∧
      memByte t.mem (B.toNat + 511) = some 255 ∧ memByte t.mem (B.toNat + 512) = none := by decide +kernel

/-- Rows K14 and K15: the answer to EXECUTE. -/
theorem test_execute_answer :
    let s : State := { boot0 [] with port := ⟨some ⟨.client, vc1⟩, true⟩, client := .awaitXfer 0 0 }
    (answerCall .client vc1 (ok 0x900) s).cw[0] = some 0 ∧
      (answerCall .client vc1 (ok 0x900) s).cd[0] = some (setResp c0 vc1 ⟨0x900, 0, 0, 0⟩) ∧
      (answerCall .client vc1 (ok 0x900) s).port = ⟨none, true⟩ ∧ (answerCall .client vc1 (err 13) s).cw[0] = some 13 := by
  decide +kernel

/-- Every variable holds a value. -/
def filled (w : Word) (img : Image) : State :=
  { boot0 [] with cw := Vector.replicate 32 (some w), cd := Vector.replicate 16 (some img) }

/-- Row K16, and 95 P7: an EXECUTE of no value, and of a write, whose request is in the history (10 R36, R38). -/
theorem test_execute_stops :
    (after (exec (.execute 0 0) (boot0 [])) (boot0 [])).fault = some (.unwrittenRead (.cd 0)) ∧
      (let t := after (exec (.execute 0 0) (filled 0 (setBytes vc1 0 [1]))) (boot0 [])
       t.refused = some (.writePathRefused .client) ∧ t.port.call = none ∧
         t.history = [.xferReq .client (setBytes vc1 0 [1])]) := by decide +kernel

/-! ### The client: 95 L2.6 and L2.7 -/

/-- Row K1. -/
theorem test_halt : (after (exec .halt { boot0 [] with cpc := 5 }) (boot0 [])).client = .finished ∧
    (after (exec .halt { boot0 [] with cpc := 5 }) (boot0 [])).cpc = 5 := by decide +kernel

/-- Row K2. -/
theorem test_movi : (after (step (boot0 [0x00000125, 0xE00])) (boot0 [])).cw[1] = some 0xE00 ∧
    (after (step (boot0 [0x00000125, 0xE00])) (boot0 [])).cpc = 2 := by decide +kernel

/-- A state at CPC = 4 with CW[2] = w. -/
def atJump (w : Word) : State := { boot0 [] with cw := (Vector.replicate 32 none).set 2 (some w), cpc := 4 }

/-- Rows K3, K4 and K7. -/
theorem test_jz : (after (exec (.jz 2 0) (atJump 0)) (atJump 0)).cpc = 0 ∧ (after (exec (.jz 2 0) (atJump 1)) (atJump 1)).cpc = 6 ∧
    (after (exec (.jz 2 0) (boot0 [])) (boot0 [])).fault = some (.unwrittenRead (.cw 2)) := by decide +kernel

/-- Rows K5 and K6. -/
theorem test_jnz : (after (exec (.jnz 2 9) (atJump 1)) (atJump 1)).cpc = 9 ∧ (after (exec (.jnz 2 9) (atJump 0)) (atJump 0)).cpc = 6 := by
  decide +kernel

/-- Rows K8 and K9: the last word of the zeroed buffer. -/
theorem test_zero_buf :
    let t := after (exec .zeroBuf (boot0 [])) (boot0 [])
    t.cpc = 1 ∧ memByte t.mem (B.toNat + 511) = some 0 ∧ memByte t.mem (B.toNat + 512) = none ∧ memByte t.mem (B.toNat - 1) = none ∧
      (after (exec (.readBuf 0 508) t) t).cw[0] = some 0 := by decide +kernel

/-- A state whose buffer begins, and ends, with the given bytes. -/
def withBuf (c : Params) (bs : List Byte) (k : Nat) : State := { resetWith c with mem := cellsFrom (B.toNat + k) bs }

/-- Rows K11 to K13. -/
theorem test_read_buf :
    (after (exec (.readBuf 0 0) (withBuf c0 [0, 1, 2, 3] 0)) (boot0 [])).cw[0] = some 0x03020100 ∧
      (after (exec (.readBuf 0 508) (withBuf c0 [0xFC, 0xFD, 0xFE, 0xFF] 508)) (boot0 [])).cw[0] = some 0xFFFEFDFC ∧
      (after (exec (.readBuf 0 0) (withBuf cBig [0, 1, 2, 3] 0)) (boot0 [])).cw[0] = some 0x00010203 := by decide +kernel

/-- Row K10, and the first byte that holds no value is the one named (60 R246). -/
theorem test_read_buf_unwritten :
    (after (exec (.readBuf 0 0) (boot0 [])) (boot0 [])).fault = some (.unwrittenRead (.byte B.toNat)) ∧
      (after (exec (.readBuf 0 0) (withBuf c0 [7, 7] 0)) (boot0 [])).fault = some (.unwrittenRead (.byte (B.toNat + 2))) := by
  decide +kernel

/-- The first step of FETCH_EXTCSD (44 R231). -/
theorem test_fetch_starts :
    let t := after (exec (.fetchExtcsd 6) { boot0 [] with cerr := some 5, cresult := .transport }) (boot0 [])
    t.client = .fetching 6 .one false ∧ t.cerr = none ∧ t.cpc = 0 ∧ memByte t.mem B.toNat = some 0 ∧
      memByte t.mem (B.toNat + 511) = some 0 := by decide +kernel

/-- Row F3: the CMD8 fails; the fetch ends with TRANSPORT, CERR = 5, and no second check. -/
theorem test_fetch_read_fails :
    let s : State := { boot0 [] with port := ⟨some ⟨.client, vc2⟩, false⟩, client := .fetching 0 .three true }
    let t := answerCall .client vc2 (err 5) s
    t.cw[0] = some 3 ∧ t.cerr = some 5 ∧ t.cresult = .transport ∧ t.client = .ready ∧ t.cpc = 1 ∧ t.port = ⟨none, true⟩ := by
  decide +kernel

/-! ### The rows of the transport, and the host's placing of an instruction -/

/-- SEND_STATUS_DESC answers POLL's call; a CMD13 answer to the client leaves BUSY_HAZARD alone (row T4). -/
theorem test_send_status_desc :
    isNext (exec (.sendStatusDesc 0x00010000 ⟨0, 0, 0, 0⟩)
        { boot0 [] with poll := waiting 1, port := ⟨some ⟨.poll, vc1⟩, true⟩, client := .awaitDone 0 }) = true ∧
      (after (exec (.sendStatusDesc 0x00010000 ⟨0, 0, 0, 0⟩)
        { boot0 [] with port := ⟨some ⟨.client, vc1⟩, false⟩, client := .awaitXfer 0 0 }) (boot0 [])).port = ⟨none, false⟩ := by
  decide +kernel

/-- SEND_EXT_CSD_DESC sets BUSY_HAZARD (43 R208), whatever the answer. -/
theorem test_send_ext_csd_desc :
    let s : State := { boot0 [] with port := ⟨some ⟨.client, vc2⟩, false⟩, client := .awaitXfer 0 0 }
    (after (exec (.sendExtCsdDesc ⟨0, 0, 0, 0⟩ B) s) s).port = ⟨none, true⟩ := by decide +kernel

/-- MMC_CONTROL_CALL with no call outstanding: the transport has no step (43 R207). -/
theorem test_mmc_control_call :
    isNext (exec .mmcControlCall (boot0 [])) = false ∧
      isNext (exec .mmcControlCall { boot0 [] with port := ⟨some ⟨.client, vc1⟩, true⟩, client := .awaitXfer 0 0 }) = true := by
  decide +kernel

/-- The first step after reset runs the instruction placed: MOVI, a descriptor image, and the control call. -/
theorem test_with_fetch_word :
    (after (step (State.reset.withFetchWord 64 0x00000E0000000125)) (boot0 [])).cw[1] = some 0xE00 ∧
      isNext (step (State.reset.withFetchWord 576 (0x15 * 2 ^ 256 + 0x00010000 * 2 ^ 96 + 13 * 2 ^ 64))) = true ∧
      isNext (step (State.reset.withFetchWord 16 0xB300)) = true := by decide +kernel

/-- 95 P5: from reset a CMD8 faults with BusyHazard, and the fault ends the run. -/
theorem test_fault_ends_run :
    let s : State := { boot0 [0x00000022] with cd := Vector.replicate 16 (some vc2) }
    (after (step s) s).fault = some (.busyHazard 8) ∧ (after (step s) s).cw[0] = none ∧ isNext (step (after (step s) s)) = false := by
  decide +kernel

/-! ### Witnesses: for each statement with hypotheses, states and operands that meet them, clause by clause -/

/-- A client at its HALT. -/
def atHalt : State := boot0 [0x00000000]
/-- After the START of ENSURE_READY cw0. -/
def issuing : State :=
  { boot0 [] with poll := started, client := .awaitDone 0, history := [.req (.ensureReady 0 0x00010000)] }
/-- The n-th status command of POLL is outstanding. -/
def answering (c : Params) (n : Word) : State :=
  { resetWith c with poll := waiting n, port := ⟨some ⟨.poll, vc1⟩, true⟩, client := .awaitDone 0 }
/-- A delay after the n-th attempt. -/
def delaying (n : Word) (cl : ClientState) : State :=
  { boot0 [] with poll := { waiting n with phase := .delay, lastResp := some 0xE00 }, client := cl }
/-- Host memory with the buffer zeroed, as the first step of a fetch leaves it. -/
def zeroed : List Host.Cell := memStore [] B.toNat (List.replicate 512 0)
/-- A fetch at the step given, BUSY_HAZARD as given. -/
def inFetch (k : FStep) (w busy : Bool) : State :=
  { boot0 [] with client := .fetching 0 k w, port := ⟨none, busy⟩, mem := zeroed }
/-- A fetch whose CMD8 is outstanding. -/
def fetchRead : State :=
  { boot0 [] with client := .fetching 0 .three true, port := ⟨some ⟨.client, sendExtCsdImg c0 B⟩, false⟩, mem := zeroed }
/-- A client that waits for its EXECUTE of an image. -/
def executing (img : Image) (busy : Bool) : State :=
  { boot0 [] with client := .awaitXfer 0 0, port := ⟨some ⟨.client, img⟩, busy⟩ }
theorem zeroed_wf : Memory.wf zeroed = true := memStore_wf [] _ _ wf_nil (by decide +kernel)

theorem zeroed_zero (s : State) (hm : s.mem = zeroed) (hc : s.cfg = c0) : BufferZero s := by
  intro k hk
  have hB : c0.bufAddr = B := rfl
  rw [hm, hc, hB, zeroed, memByte_memStore, if_pos ⟨Nat.le_add_right _ _, by rw [List.length_replicate]; exact Nat.add_lt_add_left hk _⟩,
    Nat.add_sub_cancel_left, List.getElem?_replicate, if_pos (show k < 512 from hk)]

theorem atHalt_consistent : Consistent atHalt :=
  ⟨by decide +kernel, by decide +kernel, by decide +kernel, trivial, rfl, (fun h => nomatch h), (fun _ h => nomatch h), (fun h => nomatch h)⟩
theorem issuing_consistent : Consistent issuing :=
  ⟨by decide +kernel, by decide +kernel, by decide +kernel, trivial, rfl, (fun h => nomatch h), (fun _ h => nomatch h), (fun h => nomatch h)⟩
theorem delaying_consistent : Consistent (delaying 50 (.awaitDone 0)) :=
  ⟨by decide +kernel, by decide +kernel, by decide +kernel, trivial, rfl, (fun h => nomatch h), (fun _ h => nomatch h), (fun h => nomatch h)⟩
theorem delaying_fetch_consistent : Consistent (delaying 50 (.fetching 0 .four true)) :=
  ⟨by decide +kernel, by decide +kernel, by decide +kernel, trivial, rfl, (fun h => nomatch h), (fun _ h => nomatch h), (fun h => nomatch h)⟩
theorem executing_consistent : Consistent (executing (s8 c0 B 1 512) false) :=
  ⟨by decide +kernel, by decide +kernel, by decide +kernel, (by decide +kernel : callLegal c0 (.awaitXfer 0 0) ⟨.client, s8 c0 B 1 512⟩ = true),
    rfl, (fun h => nomatch h), (fun _ h => nomatch h), (fun h => nomatch h)⟩
theorem inFetch_one_consistent : Consistent (inFetch .one false false) :=
  ⟨by decide +kernel, by decide +kernel, by decide +kernel, trivial, zeroed_wf, fun _ => zeroed_zero _ rfl rfl, fun _ _ => rfl,
    (fun h => nomatch h)⟩
theorem inFetch_two_consistent : Consistent (inFetch .two false false) :=
  ⟨by decide +kernel, by decide +kernel, by decide +kernel, trivial, zeroed_wf, fun _ => zeroed_zero _ rfl rfl, fun _ _ => rfl,
    (fun h => nomatch h)⟩
theorem inFetch_three_consistent : Consistent (inFetch .three false false) :=
  ⟨by decide +kernel, by decide +kernel, by decide +kernel, trivial, zeroed_wf, fun _ => zeroed_zero _ rfl rfl, fun _ _ => rfl,
    (fun h => nomatch h)⟩
theorem fetchRead_consistent : Consistent fetchRead :=
  ⟨by decide +kernel, by decide +kernel, by decide +kernel,
    (by decide +kernel : callLegal c0 (.fetching 0 .three true) ⟨.client, sendExtCsdImg c0 B⟩ = true), zeroed_wf,
    fun _ => zeroed_zero _ rfl rfl, (fun _ h => nomatch h), (fun h => nomatch h)⟩

/-- A client at an EXECUTE of a write. -/
def refusing : State := { filled 0 (setBytes vc1 0 [1]) with program := [0x00000022] }

/-- The steps the witnesses take. -/
theorem step_stepped (s : State) (h : isNext (step s) = true) : step s = .next (stepped s) := next_after _ s h
theorem atHalt_step : step atHalt = .next (stepped atHalt) := step_stepped _ (by decide +kernel)
theorem issuing_step : step issuing = .next (stepped issuing) := step_stepped _ (by decide +kernel)
theorem delaying_step : step (delaying 50 (.awaitDone 0)) = .next (stepped (delaying 50 (.awaitDone 0))) :=
  step_stepped _ (by decide +kernel)
theorem delaying_fetch_step : step (delaying 50 (.fetching 0 .four true)) = .next (stepped (delaying 50 (.fetching 0 .four true))) :=
  step_stepped _ (by decide +kernel)
theorem inFetch_step : step (inFetch .one false false) = .next (stepped (inFetch .one false false)) :=
  step_stepped _ (by decide +kernel)
theorem fetchRead_step : step fetchRead = .next (stepped fetchRead) := step_stepped _ (by decide +kernel)
theorem fault_step : step (boot0 []) = .next (stepped (boot0 [])) := step_stepped _ (by decide +kernel)
theorem refuse_step : step refusing = .next (stepped refusing) := step_stepped _ (by decide +kernel)

theorem test_witness_EveryInstructionRoundTrips : Instr.wellFormed (.readBuf 31 508) = true ∧ isRequest (.readBuf 31 508) = true ∧
    Instr.wellFormed (.sendExtCsdDesc ⟨1, 2, 3, 4⟩ B) = true := by decide
theorem test_witness_DecodedCodesEncodeBack : decodeFrame [0x000F1005, 7] = .ok (.unpack 16 15, [7]) ∧
    decodeImage c0 vc2 ≠ .mmcControlCall := by decide +kernel
theorem test_witness_IllegalFramesRaiseIllegalRequest : (boot0 [0x00001105]).fault = none ∧ enabled (boot0 [0x00001105]) = [.client] ∧
    (boot0 [0x00001105]).client = .ready ∧ frameLegal ((boot0 [0x00001105]).program.drop 0) = false ∧
    frameLegal ((boot0 []).program.drop 0) = false ∧ frameLegal [0x00001005] = true := by decide +kernel
theorem test_witness_SetReplacesItsBytesOnly : 68 + 4 ≤ 72 ∧ 64 + 8 ≤ 72 ∧ (67 < 68 ∨ 68 + 4 ≤ 67) ∧ (72 < 64 ∨ 64 + 8 ≤ 72) := by decide
theorem test_witness_PackAndUnpackLaws : CodecImage c0 (withTimeoutImg c0 (buildImg c0 13 0x00010000 0x15) 1000 5000000) ∧
    reservedZero .abi (setBytes vc1 4 [0xAB]) = false := ⟨.withTimeout _ _ _ (.build _ _ _), by decide +kernel⟩
theorem test_witness_ChainingLaws : (WordField.postsleepMax ∈ [WordField.opcode, .argument, .flags, .writeFlag, .resp0, .resp1, .resp2,
    .resp3, .postsleepMin, .postsleepMax]) ∧ isReservedByte .abi 4 = true ∧ isReservedByte .abi 63 = true ∧
    isReservedByte .literal 56 = true ∧ isReservedByte .literal 4 = false := by decide
theorem test_witness_WithTimeoutAndWithDataComplete : (filled 0 vc1).cd[(15 : Fin 16)] = some vc1 ∧ (boot0 []).cd[(15 : Fin 16)] = none := by decide +kernel
theorem test_witness_UnpackCompletes : (16 : Fin 32).val ≤ 16 ∧ (filled 0 vc1).cd[(15 : Fin 16)] = some vc1 ∧
    (boot0 []).cd[(15 : Fin 16)] = none := by decide +kernel
theorem test_witness_CodecRequestsArePure :
    let i : Instr := .withTimeout 1 0 7 9
    let s' : State := { filled 5 vc1 with history := [.delayDone] }
    isCodec i = true ∧ (filled 0 vc1).cfg = s'.cfg ∧ (∀ src ∈ codecSource i, (filled 0 vc1).cd[src] = s'.cd[src]) ∧
      exec i (filled 0 vc1) = .next (replyImage i 1 (withTimeoutImg c0 vc1 7 9) (filled 0 vc1)) ∧
      exec i s' = .next (replyImage i 1 (withTimeoutImg c0 vc1 7 9) s') :=
  ⟨rfl, rfl, fun _ _ => rfl, rfl, rfl⟩
theorem test_witness_DecoderRequestsComplete : (filled 0xF00 vc1).cw[(31 : Fin 32)] = some 0xF00 ∧ (boot0 []).cw[(31 : Fin 32)] = none := by decide +kernel
theorem test_witness_DecoderIgnoresOtherBits : (0x80000900 : Word).extractLsb' 8 5 = (0x000009FF : Word).extractLsb' 8 5 := by decide
theorem test_witness_PollStepIsTheTable : (started.pstate = .checking ↔ started.phase ≠ .idle) ∧
    (started.pstate = .checking → started.arg.isSome = true) := by decide
theorem test_witness_EnsureReadyStartsAndEnds : (delaying 50 (.awaitDone 0)).client = .awaitDone 0 ∧
    step (delaying 50 (.awaitDone 0)) = .next (stepped (delaying 50 (.awaitDone 0))) ∧
    (delaying 50 (.awaitDone 0)).poll.pstate = .checking ∧ (stepped (delaying 50 (.awaitDone 0))).poll.pstate ≠ .checking ∧
    (stepped (delaying 50 (.awaitDone 0))).client ≠ .awaitDone 0 :=
  ⟨rfl, delaying_step, rfl, by decide +kernel, by decide +kernel⟩
theorem test_witness_OnlyStartLeavesTerminalStates : atHalt.poll.pstate ≠ .checking ∧
    step atHalt = .next (stepped atHalt) ∧ (stepped atHalt).poll.pstate ≠ .checking ∧
    (inFetch .one false false).poll.pstate ≠ .checking ∧
    step (inFetch .one false false) = .next (stepped (inFetch .one false false)) ∧
    (stepped (inFetch .one false false)).poll.pstate = .checking :=
  ⟨by decide +kernel, atHalt_step, by decide +kernel, by decide +kernel, inFetch_step, by decide +kernel⟩
theorem test_witness_UnknownIsNeverReentered : step atHalt = .next (stepped atHalt) ∧
    (stepped atHalt).poll.pstate = .unknown := ⟨atHalt_step, by decide +kernel⟩
theorem test_witness_IssueSubmitsAStatusCommand : issuing.poll.pstate = .checking ∧ issuing.poll.phase = .issue ∧
    issuing.poll.arg = some 0x00010000 ∧ issuing.port.call = none ∧
    ({ issuing with port := ⟨some ⟨.client, vc2⟩, false⟩ } : State).port.call ≠ none := by decide +kernel
theorem test_witness_StatusAnswerMovesPoll : (answering c0 50).port.call = some ⟨.poll, vc1⟩ ∧ opcodeOf c0 vc1 = 13 ∧
    decodeImage c0 vc1 = .sendStatusDesc 0x00010000 ⟨0, 0, 0, 0⟩ ∧
    performs c0 vc1 (.sendStatusDesc 0x00010000 ⟨0, 0, 0, 0⟩) = some vc1 ∧ performs c0 vc1 .mmcControlCall = some vc1 ∧
    blocksOf c0 vc1 = 0 ∧ (answering c0 50).poll.pstate = .checking ∧ (answering c0 50).poll.phase = .waitRsp ∧
    (answering c0 50).poll.attempts.toNat ≤ Config.maxAttempts ∧ (err 13).err = some 13 ∧
    ((ok 0x900).err = none ∧ isReady (ok 0x900).resp.r0 = true) ∧
    ((ok 0xF00).err = none ∧ isReady (ok 0xF00).resp.r0 = false ∧ (answering c0 50).cfg.delayAfterLast = true) ∧
    (answering c0 49).poll.attempts.toNat < Config.maxAttempts ∧
    ((answering cNoDelay 50).poll.attempts.toNat = Config.maxAttempts ∧ (answering cNoDelay 50).cfg.delayAfterLast = false) := by
  decide +kernel
theorem test_witness_DelayDoneMovesPoll : (delaying 49 (.awaitDone 0)).poll.pstate = .checking ∧
    (delaying 49 (.awaitDone 0)).poll.phase = .delay ∧ (delaying 49 (.awaitDone 0)).poll.attempts.toNat < 50 ∧
    (delaying 50 (.awaitDone 0)).poll.attempts.toNat = 50 := by decide +kernel
theorem test_witness_DoneCarriesTheResult : step (delaying 50 (.awaitDone 0)) = .next (stepped (delaying 50 (.awaitDone 0))) ∧
    (stepped (delaying 50 (.awaitDone 0))).history = (delaying 50 (.awaitDone 0)).history ++ [.delayDone, .done .timeout none] :=
  ⟨delaying_step, by decide +kernel⟩
theorem test_witness_EnsureReadyTerminates : Consistent issuing ∧ issuing.poll.pstate = .checking ∧ issuing.fault = none ∧
    issuing.refused = none := ⟨issuing_consistent, rfl, rfl, rfl⟩
theorem test_witness_InvocationCountsKept : Consistent issuing ∧ InvocationCounts issuing ∧
    step issuing = .next (stepped issuing) :=
  ⟨issuing_consistent, (by decide +kernel : issues issuing = 0 ∧ dones issuing = 0 ∧ delays issuing = 0), issuing_step⟩
theorem test_witness_EventOrderKept : Consistent issuing ∧ (stageOf issuing.cfg issuing.history = some (pollStage issuing.poll)) ∧ step issuing = .next (stepped issuing) :=
  ⟨issuing_consistent, by decide +kernel, issuing_step⟩
theorem test_witness_ReadStatusCompletes :
    let s : State := { boot0 [] with poll := ⟨.failed, .idle, 1, some 3, some 4, .transport, some 13, some vc1⟩ }
    s.poll.arg = some 3 ∧ s.poll.lastResp = some 4 ∧ s.poll.errcode = some 13 ∧ s.poll.pdesc = some vc1 ∧
      (15 : Fin 32).val = (15 : Fin 16).val ∧
      (boot0 []).poll.arg = none ∧ (boot0 []).poll.lastResp = none ∧ (boot0 []).poll.errcode = none ∧ (boot0 []).poll.pdesc = none := by
  decide +kernel
theorem test_witness_ExecuteSubmitsOrStops : (filled 0 vc2).cd[(0 : Fin 16)] = some vc2 ∧ (filled 0 vc2).port.call = none ∧
    writeFlagOf c0 vc2 = 0 ∧ blocksOf c0 vc2 ≠ 0 ∧ (ptrOf c0 vc2).toNat % 8 = 0 ∧ opcodeOf c0 vc2 ≠ 13 ∧
    (filled 0 vc2).port.busyHazard = true := by decide +kernel
theorem test_witness_AnswerCompletesExecute :
    let s := executing vc2 false
    s.client = .awaitXfer 0 0 ∧ s.port.call = some ⟨.client, vc2⟩ ∧ blocksOf c0 vc2 ≠ 0 ∧
      (ptrOf c0 vc2).toNat + transferLen c0 vc2 ≤ 2 ^ 64 ∧ performs c0 vc2 (.sendExtCsdDesc ⟨0, 0, 0, 0⟩ B) = some vc2 ∧
      performs c0 vc2 .mmcControlCall = some vc2 ∧
      (executing vc1 true).client = .awaitXfer 0 0 ∧ (executing vc1 true).port.call = some ⟨.client, vc1⟩ ∧ blocksOf c0 vc1 = 0 ∧
      performs c0 vc1 (.sendStatusDesc 0x00010000 ⟨0, 0, 0, 0⟩) = some vc1 := by decide +kernel
theorem test_witness_TransportRowsAnswerTheCall :
    (executing vc1 true).port.call = some ⟨.client, vc1⟩ ∧ (answering c0 1).port.call = some ⟨.poll, vc1⟩ ∧
      performs c0 vc1 (.sendStatusDesc 0x00010000 ⟨0, 0, 0, 0⟩) = some vc1 ∧
      performs c0 vc1 (.sendExtCsdDesc ⟨0, 0, 0, 0⟩ B) = some vc2 ∧ performs c0 vc1 .mmcControlCall = some vc1 ∧
      blocksOf c0 vc1 = 0 ∧ (ptrOf c0 vc2).toNat + transferLen c0 vc2 ≤ 2 ^ 64 ∧
      isRequest .mmcControlCall = false ∧ (boot0 []).port.call = none := by decide +kernel
/-- The answer to a CMD8 sets BUSY_HAZARD, whatever it is; the last conjunct is POLL's ready answer, which clears it. -/
theorem test_witness_BusyHazardRule :
    let s := executing (s8 c0 B 1 512) false
    Consistent s ∧ isNext (step s) = true ∧ (after (step s) s).fault = none ∧ (after (step s) s).port = ⟨none, true⟩ ∧
      s.port.call = some ⟨.client, s8 c0 B 1 512⟩ ∧ opcodeOf c0 (s8 c0 B 1 512) ≠ 13 ∧ s.port.busyHazard = false ∧
      (answerCall .poll vc1 (ok 0x900) (answering c0 1)).port.busyHazard = false :=
  ⟨executing_consistent, by decide +kernel, by decide +kernel, by decide +kernel, rfl, by decide +kernel, rfl, by decide +kernel⟩
theorem test_witness_OnlyStatusCommandsWhileBusy : step issuing = .next (stepped issuing) ∧ issuing.port.call = none ∧
    (stepped issuing).port.call = some ⟨.poll, sendStatusImg c0 0x00010000⟩ ∧ issuing.port.busyHazard = true :=
  ⟨issuing_step, rfl, by decide +kernel, rfl⟩
theorem test_witness_OneAnswerForEachCall : OneAnswerEach issuing ∧ step issuing = .next (stepped issuing) :=
  ⟨rfl, issuing_step⟩
theorem test_witness_MoviAndJumpsComplete : (filled 0 vc1).cw[(31 : Fin 32)] = some 0 ∧ (filled 1 vc1).cw[(0 : Fin 32)] = some 1 ∧
    (boot0 []).cw[(31 : Fin 32)] = none := by decide +kernel
theorem test_witness_HaltFinishesTheClient :
    let s : State := { executing vc1 true with client := .finished }
    s.client = .finished ∧ isNext (step s) = true := by decide +kernel
/-- The premise at its boundary: a buffer that ends at 2^64. -/
theorem test_witness_ZeroBufCompletes : (boot0 []).cfg.bufAddr.toNat + 512 ≤ 2 ^ 64 ∧
    ({ c0 with bufAddr := 0xFFFFFFFFFFFFFE00 } : Params).bufAddr.toNat + 512 = 2 ^ 64 := by decide +kernel
/-- A buffer whose last 8 bytes would lie past 2^64-1. -/
def atTop : State := resetWith { c0 with bufAddr := 0xFFFFFFFFFFFFFE08 }
/-- The premise at its boundary: the last four bytes of the address space, in a buffer that would pass them. -/
theorem test_witness_ReadBufCompletes :
    let s : State := { atTop with mem := cellsFrom (2 ^ 64 - 4) [0xFC, 0xFD, 0xFE, 0xFF] }
    let a := s.cfg.bufAddr.toNat + (500 : Word).toNat
    (500 : Word).toNat % 4 = 0 ∧ (500 : Word).toNat ≤ 508 ∧ a + 4 = 2 ^ 64 ∧
      memByte s.mem a = some 0xFC ∧ memByte s.mem (a + 1) = some 0xFD ∧ memByte s.mem (a + 2) = some 0xFE ∧
      memByte s.mem (a + 3) = some 0xFF := by decide +kernel
theorem test_witness_UnwrittenReadsFault :
    let s : State := { atTop with mem := cellsFrom (2 ^ 64 - 4) [7, 7, 7] }
    let a := s.cfg.bufAddr.toNat + (500 : Word).toNat
    s.cw[(0 : Fin 32)] = none ∧ s.cd[(15 : Fin 16)] = none ∧ (16 : Fin 32).val ≤ 16 ∧
      (s.poll.arg = none ∧ s.poll.lastResp = none ∧ s.poll.errcode = none ∧ (15 : Fin 32).val ≤ 15 ∧ s.poll.pdesc = none) ∧
      (500 : Word).toNat % 4 = 0 ∧ a + 4 = 2 ^ 64 ∧
      (∀ j, j < 3 → memByte s.mem (a + j) ≠ none) ∧ memByte s.mem (a + 3) = none := by
  decide +kernel
theorem test_witness_AccessesPastTheAddressSpaceFault : 2 ^ 64 < atTop.cfg.bufAddr.toNat + 512 ∧
    2 ^ 64 < atTop.cfg.bufAddr.toNat + (508 : Word).toNat + 4 ∧
    (let img := sendExtCsdImg c0 0xFFFFFFFFFFFFFE08
     let s : State := { atTop with port := ⟨some ⟨.client, img⟩, false⟩, client := .awaitXfer 0 0 }
     s.port.call = some ⟨.client, img⟩ ∧ performs s.cfg img (.sendExtCsdDesc ⟨0, 0, 0, 0⟩ 0xFFFFFFFFFFFFFE08) = some img ∧
       performs s.cfg img .mmcControlCall = some img ∧ blocksOf s.cfg img ≠ 0 ∧ 2 ^ 64 < (ptrOf s.cfg img).toNat + transferLen s.cfg img) := by
  decide +kernel
theorem test_witness_FetchStartsByZeroing : (boot0 [0x00000030]).cfg.bufAddr.toNat + 512 ≤ 2 ^ 64 := by decide
theorem test_witness_FetchChecksReadsAndChecks :
    (Consistent (inFetch .one false false) ∧ (inFetch .one false false).cfg.inRange = true ∧ (inFetch .one false false).fault = none ∧
      (inFetch .one false false).refused = none ∧ (inFetch .one false false).client = .fetching 0 .one false) ∧
    (Consistent (inFetch .two false false) ∧ (inFetch .two false false).client = .fetching 0 .two false) ∧
    Consistent (inFetch .three false false) ∧ (inFetch .three false false).client = .fetching 0 .three false :=
  ⟨⟨inFetch_one_consistent, by decide +kernel, rfl, rfl, rfl⟩, ⟨inFetch_two_consistent, rfl⟩, inFetch_three_consistent, rfl⟩
theorem test_witness_FetchEndsWithItsFirstError :
    (Consistent (delaying 50 (.fetching 0 .four true)) ∧ (delaying 50 (.fetching 0 .four true)).client = .fetching 0 .four true ∧
      step (delaying 50 (.fetching 0 .four true)) = .next (stepped (delaying 50 (.fetching 0 .four true))) ∧
      (stepped (delaying 50 (.fetching 0 .four true))).client = .ready) ∧
    (Consistent (inFetch .one false false) ∧ step (inFetch .one false false) = .next (stepped (inFetch .one false false)) ∧
      (stepped (inFetch .one false false)).client ≠ .ready) ∧
    Consistent fetchRead ∧ fetchRead.client = .fetching 0 .three true ∧ step fetchRead = .next (stepped fetchRead) :=
  ⟨⟨delaying_fetch_consistent, rfl, delaying_fetch_step, by decide +kernel⟩,
    ⟨inFetch_one_consistent, inFetch_step, by decide +kernel⟩, fetchRead_consistent, rfl, fetchRead_step⟩
theorem test_witness_FetchTerminates : Consistent (inFetch .one false false) ∧ (inFetch .one false false).cfg.inRange = true ∧
    (inFetch .one false false).client = .fetching 0 .one false ∧ (inFetch .one false false).fault = none ∧
    (inFetch .one false false).refused = none ∧ (inFetch .one false false).cfg.bufAddr.toNat + 512 ≤ 2 ^ 64 :=
  ⟨inFetch_one_consistent, by decide +kernel, rfl, rfl, rfl, by decide +kernel⟩
theorem test_witness_BootChecksTheConfiguration :
    (c0.bufAddr.toNat % 8 = 0 ∧ c0.bufAddr ≠ 0 ∧ ∀ e ∈ c0.osErr, e ≠ 0) ∧
      ¬ (({ c0 with bufAddr := 0 } : Params).bufAddr ≠ 0) ∧ ¬ ((B + 4).toNat % 8 = 0) :=
  ⟨⟨by decide, by decide, List.forall_mem_cons.2 ⟨by decide, List.forall_mem_cons.2 ⟨by decide, List.forall_mem_nil _⟩⟩⟩, by decide, by decide⟩
theorem test_witness_StepRunsOneAgent :
    (atHalt.fault = none ∧ enabled atHalt = [.client] ∧ atHalt.client = .ready ∧
      decodeFrame (atHalt.program.drop atHalt.cpc) = .ok (.halt, [])) ∧
    (enabled (inFetch .one false false) = [.client]) ∧ enabled issuing = [.poll] ∧
    (enabled (answering c0 1) = [.transport] ∧ (answering c0 1).port.call = some ⟨.poll, vc1⟩) ∧
    enabled (delaying 50 (.awaitDone 0)) = [.timer] := by decide +kernel
theorem test_witness_FaultsEndTheRun : (stepped (boot0 [])).fault = some (.illegalRequest 0 none) ∧
    step (boot0 []) = .next (stepped (boot0 [])) := ⟨by decide +kernel, fault_step⟩
theorem test_witness_FaultsArePrecise : step (boot0 []) = .next (stepped (boot0 [])) ∧
    (stepped (boot0 [])).fault = some (.illegalRequest 0 none) := ⟨fault_step, by decide +kernel⟩
/-- A refusal; a step of another agent in a refused state; and the marks. -/
theorem test_witness_RefusedWritesEndTheAgent :
    (step refusing = .next (stepped refusing) ∧ refusing.refused = none ∧
      (stepped refusing).refused = some (.writePathRefused .client) ∧
      (stepped refusing).history = [.xferReq .client (setBytes vc1 0 [1])]) ∧
    (let s : State := { issuing with refused := some (.writePathRefused .client) }
     isNext (step s) = true ∧ s.refused = some (.writePathRefused .client) ∧ s.refused.isSome = true) ∧
    ({ issuing with refused := some (.writePathRefused .poll) } : State).refused = some (.writePathRefused .poll) :=
  ⟨⟨refuse_step, rfl, by decide +kernel, by decide +kernel⟩, ⟨by decide +kernel, rfl, rfl⟩, rfl⟩
theorem test_witness_ConfigurationProgramAndPastAreKept : step atHalt = .next (stepped atHalt) := atHalt_step
theorem test_witness_MemoryStaysCanonical : Memory.wf fetchRead.mem = true ∧ step fetchRead = .next (stepped fetchRead) :=
  ⟨zeroed_wf, fetchRead_step⟩
theorem test_witness_HostMemoryChangesInTheBufferOnly : Consistent fetchRead ∧ step fetchRead = .next (stepped fetchRead) ∧
    (B.toNat - 1 < fetchRead.cfg.bufAddr.toNat ∧ fetchRead.cfg.bufAddr.toNat + 512 ≤ B.toNat + 512) ∧
    Consistent issuing ∧ issuing.poll.pstate = .checking ∧ step issuing = .next (stepped issuing) :=
  ⟨fetchRead_consistent, fetchRead_step, by decide +kernel, issuing_consistent, rfl, issuing_step⟩
theorem test_witness_EveryStepKeepsConsistent : Consistent fetchRead ∧ step fetchRead = .next (stepped fetchRead) ∧ Consistent issuing ∧
    step issuing = .next (stepped issuing) := ⟨fetchRead_consistent, fetchRead_step, issuing_consistent, issuing_step⟩
theorem test_witness_AtMostOneAgentHasAStep : Consistent fetchRead ∧ Consistent issuing ∧ Consistent atHalt :=
  ⟨fetchRead_consistent, issuing_consistent, atHalt_consistent⟩
theorem test_witness_NoRunIsStuck : Consistent atHalt ∧ atHalt.fault = none ∧ atHalt.refused = none ∧
    Consistent (delaying 50 (.awaitDone 0)) := ⟨atHalt_consistent, rfl, rfl, delaying_consistent⟩

end Sys2Proof.Tests
end

section
/-! Proofs of the statements on the scope of the block (00 R10, R14, R18; 60 R263; 70 R273): byte images, the boot, and whose
step is next. -/

namespace Sys2Proof.Machine

/-! ### Byte images (00 R10) -/

theorem imgByte_set32_of_outside (e : Endian) (img : Image) (o : Nat) (v : Word) (i : Nat) (h : o + 4 ≤ 72)
    (hi : i < o ∨ o + 4 ≤ i) : imgByte (set32 e img o v) i = imgByte img i := by
  rw [imgByte_set32 _ _ _ _ _ h, if_neg (by omega)]

theorem imgByte_set64_of_outside (e : Endian) (img : Image) (o : Nat) (v : DWord) (i : Nat) (h : o + 8 ≤ 72)
    (hi : i < o ∨ o + 8 ≤ i) : imgByte (set64 e img o v) i = imgByte img i := by
  rw [imgByte_set64 _ _ _ _ _ h, if_neg (by omega)]

/-- Settles O5: the byte orders are those of `assemble32` and `assemble64`, and a write is read back and framed by the laws of
`set32` and `set64`. -/
theorem setReplacesItsBytesOnly : Obligations.SetReplacesItsBytesOnly := by
  unfold Obligations.SetReplacesItsBytesOnly
  refine ⟨fun img o => ⟨rfl, rfl, rfl, rfl⟩, fun e img o v h => ⟨get32_set32 e img o v h, fun i hi => ?_⟩,
    fun e img o v h => ⟨get64_set64 e img o v h, fun i hi => ?_⟩, imgByte_zeros72⟩
  · exact imgByte_set32_of_outside e img o v i h hi
  · exact imgByte_set64_of_outside e img o v i h hi

/-! ### The boot (60 R263, 70 R273) -/

/-- Both layouts of 30 R71, R72 pass the layout check, so the check of a configuration rests on its parameters alone. -/
theorem layoutCheck_layoutTable (l : Layout) : layoutCheck (layoutTable l) offPtr = true := by
  cases l <;> decide

theorem inRange_iff (c : Params) :
    c.inRange = true ↔ c.bufAddr.toNat % 8 = 0 ∧ c.bufAddr ≠ 0 ∧ ∀ e ∈ c.osErr, e ≠ 0 := by
  simp only [Params.inRange, Bool.and_eq_true, List.all_eq_true, decide_eq_true_eq, and_assoc]

theorem configCheck_iff (c : Params) :
    configCheck c = true ↔ c.bufAddr.toNat % 8 = 0 ∧ c.bufAddr ≠ 0 ∧ ∀ e ∈ c.osErr, e ≠ 0 := by
  have hmax : decide (1 ≤ Config.maxAttempts) = true := rfl
  rw [configCheck, layoutCheck_layoutTable, hmax, Bool.true_and, Bool.true_and, inRange_iff]

/-- Settles O48: the configuration check is the ranges of the parameters. -/
theorem bootChecksTheConfiguration : Obligations.BootChecksTheConfiguration := by
  unfold Obligations.BootChecksTheConfiguration
  intro c program
  rw [← configCheck_iff]
  exact ⟨fun h => if_pos h, fun h => if_neg h⟩

/-! ### Whose step is next (00 R14, 44 R221) -/

theorem step_of_enabled_singleton (a : Agent) (s : State) (hf : s.fault = none) (he : enabled s = [a]) :
    step s = carryOut (turn a s) := by
  simp only [step_eq, plan, hf, he]

/-- Where some agent has a step, the step is the turn of one such agent, the counter of draws perhaps advanced. -/
theorem step_of_enabled (s : State) (hf : s.fault = none) (he : enabled s ≠ []) :
    ∃ a d, a ∈ enabled s ∧ step s = carryOut (turn a { s with draws := d }) := by
  match hs : enabled s with
  | [] => exact absurd hs he
  | [a] => exact ⟨a, s.draws, List.mem_singleton_self a, step_of_enabled_singleton a s hf hs⟩
  | a :: b :: as =>
    refine ⟨_, s.draws + 1, ?_, by simp only [step_eq, plan, hf, hs]; rfl⟩
    cases hg : (a :: b :: as)[Config.freeAgent s.draws % (a :: b :: as).length]? with
    | none => exact List.mem_cons_self
    | some c => exact List.mem_of_getElem? hg

/-- Settles O49: with one agent enabled the step is that agent's turn, and each clause is one case of `turn`. -/
theorem stepRunsOneAgent : Obligations.StepRunsOneAgent := by
  unfold Obligations.StepRunsOneAgent
  intro s hf
  refine ⟨fun i rest he hc hd => ?request, fun dst k he hc => ?fetch, fun he => ?poll, fun call he hc => ?transport,
    fun he => ?timer⟩ <;> rw [step_of_enabled_singleton _ s hf he]
  case request => simp only [turn, hc, fetchRequest, hd, carryOut]
  case fetch => simp only [turn, hc, carryOut]
  case poll => rfl
  case transport => simp only [turn, hc, carryOut]
  case timer => rfl

/-! ### An agent that has a step completes it -/

/-- A request always leaves a next state: what it cannot do, it records as a fault or a refusal. -/
theorem exec_request_next (i : Instr) (s : State) (hi : isRequest i = true) : ∃ t, exec i s = .next t := by
  cases i with
  | sendStatusDesc | sendExtCsdDesc | mmcControlCall => cases hi
  | _ => exact ⟨_, rfl⟩

theorem fetchRequest_next (s : State) : ∃ t, carryOut (fetchRequest s) = .next t := by
  unfold fetchRequest
  split
  next i rest hd => exact exec_request_next i s (decodeFrame_isRequest _ _ _ hd)
  next => exact ⟨_, rfl⟩

theorem turn_next (a : Agent) (s : State) (ha : a ∈ enabled s) : ∃ t, carryOut (turn a s) = .next t := by
  cases a with
  | client =>
    simp only [turn]
    split
    next dst k _ => exact ⟨fetchContinue dst k s, rfl⟩
    all_goals exact fetchRequest_next s
  | poll => exact ⟨issueStep s, rfl⟩
  | transport =>
    obtain ⟨call, hc⟩ := Option.isSome_iff_exists.mp (enabled_mem .transport s ha)
    have hp : carryOut (turn .transport s) = performCall call.image s := by
      simp only [turn, hc, carryOut, exec_decodeImage s call hc]
    exact ⟨_, by rw [hp, performCall, hc]⟩
  | timer => exact ⟨timerStep s, rfl⟩

theorem step_next_of_enabled (s : State) (hf : s.fault = none) (he : enabled s ≠ []) : ∃ t, step s = .next t := by
  obtain ⟨a, d, ha, hs⟩ := step_of_enabled s hf he
  rw [hs]
  exact turn_next a { s with draws := d } ha

/-! ### No run is stuck (00 R18) -/

theorem enabled_eq_nil_iff (s : State) :
    enabled s = [] ↔
      clientEnabled s = false ∧ pollEnabled s = false ∧ transportEnabled s = false ∧ timerEnabled s = false := by
  simp [enabled]

theorem call_none_of_not_transportEnabled (s : State) (h : transportEnabled s = false) : s.port.call = none := by
  simpa [transportEnabled] using h

theorem xowner_none_of_not_transportEnabled (s : State) (h : transportEnabled s = false) : s.xowner = none := by
  rw [State.xowner, call_none_of_not_transportEnabled s h]; rfl

/-- Within the budget, DelayDone has a transition (42 R171, R172). -/
theorem pollDelayDone_isSome (r : PollRegs) (busy : Bool) (h : r.attempts.toNat ≤ Config.maxAttempts) :
    (pollDelayDone r busy).isSome = true := by
  unfold pollDelayDone
  rcases Nat.lt_or_eq_of_le h with h | h
  · rw [if_pos h]; rfl
  · rw [if_neg (by omega), if_pos h]; rfl

/-- A client whose place a run can reach is at a step, waits for a Done or an answer, or has finished (44 R220). -/
theorem client_enabled_or_waits (s : State) (hr : s.refused = none) (hp : fetchPlace s.client = true) :
    clientEnabled s = true ∨ awaitsDone s.client = true ∨ awaitsAnswer s.client = true ∨ s.client = .finished := by
  have hen : isRefused .client s = false := by simp [isRefused, hr]
  unfold clientEnabled
  rw [hen]
  cases hc : s.client with
  | ready => exact .inl rfl
  | awaitDone dst => exact .inr (.inl rfl)
  | awaitXfer dst src => exact .inr (.inr (.inl rfl))
  | finished => exact .inr (.inr (.inr rfl))
  | fetching dst k waiting =>
    rw [hc] at hp
    cases waiting with
    | false => exact .inl rfl
    | true =>
      cases k with
      | one | five => cases hp
      | two | four => exact .inr (.inl rfl)
      | three => exact .inr (.inr (.inl rfl))

/-- A POLL in CHECKING waits for an agent that has a step: itself, the transport or the timer (20 R65). -/
theorem Consistent.pstate_ne_checking {s : State} (hs : Consistent s) (hr : s.refused = none) (he : enabled s = []) :
    s.poll.pstate ≠ .checking := by
  intro hc
  obtain ⟨-, hpoll, htransport, htimer⟩ := (enabled_eq_nil_iff s).mp he
  obtain ⟨hidle, -, hcall, -, -⟩ := hs.sync
  cases hp : s.poll.phase with
  | idle => exact hidle.mp hc hp
  | issue => simp [pollEnabled, isRefused, hr, hc, hp] at hpoll
  | waitRsp =>
    rw [xowner_none_of_not_transportEnabled s htransport] at hcall
    exact absurd (hcall.mpr hp) (by simp)
  | delay =>
    have := pollDelayDone_isSome s.poll s.port.busyHazard hs.budget.1
    simp [timerEnabled, hc, hp, this] at htimer

/-- Where no agent has a step, POLL is at rest and no call is outstanding, so the client waits for nothing and has finished. -/
theorem Consistent.endsWell_of_no_step {s : State} (hs : Consistent s) (hf : s.fault = none) (hr : s.refused = none)
    (he : enabled s = []) : EndsWell s := by
  obtain ⟨hclient, -, htransport, -⟩ := (enabled_eq_nil_iff s).mp he
  have hp := hs.pstate_ne_checking hr he
  have hcall := call_none_of_not_transportEnabled s htransport
  obtain ⟨hidle, hdone, -, hans, hplace⟩ := hs.sync
  have hphase : s.poll.phase = .idle := by_contra fun h => hp (hidle.mpr h)
  have hfin : s.client = .finished := by
    rcases client_enabled_or_waits s hr hplace with h | h | h | h
    · rw [hclient] at h; cases h
    · exact absurd (hdone.mpr h) hp
    · rw [xowner_none_of_not_transportEnabled s htransport] at hans
      exact absurd (hans.mpr h) (by simp)
    · exact h
  simp [EndsWell, endsWell, hfin, hp, hcall, hphase, hf, hr]

/-- Settles O60: an agent that has a step completes it, and a consistent state in which none has one has ended well. -/
theorem noRunIsStuck : Obligations.NoRunIsStuck := by
  unfold Obligations.NoRunIsStuck
  intro s hs hf hr
  by_cases he : enabled s = []
  · exact .inr (hs.endsWell_of_no_step hf hr he)
  · exact .inl (step_next_of_enabled s hf he)

end Sys2Proof.Machine
end

section
/-! Proofs of the statements on what every step keeps (10 R24 to R29, R33, R38; 20 R65, R67; 43 R200; 44 R233, R238): the
configuration, the program and the past; and the invariant `Consistent`, which reset has. A state of a run has POLL at rest
(`AtRest`) or in CHECKING (`Checking`); each kind of step is shown to lead from one of the two to a consistent state. -/

namespace Sys2Proof.Machine

/-! ### The configuration, the program and the past (10 R33, R38; 20 R67) -/

theorem StepKind.cfg_program {s t : State} (h : StepKind s t) : t.cfg = s.cfg ∧ t.program = s.program := by
  cases h with
  | ends _ _ hl => exact ⟨hl.cfg, hl.program⟩
  | answer call a _ _ e => subst e; cases call.owner <;> simp
  | timer out _ _ _ e => subst e; simp
  | _ => rename_i e; subst e; exact ⟨rfl, rfl⟩

theorem Transaction.history_append {s t : State} (h : Transaction s t) : ∃ es, t.history = s.history ++ es := by
  cases h <;> exact ⟨_, ‹t.history = _›⟩

/-- Settles O54: no kind of step writes the configuration or the program, and every transaction appends its events. -/
theorem configurationProgramAndPastAreKept : Obligations.ConfigurationProgramAndPastAreKept := by
  unfold Obligations.ConfigurationProgramAndPastAreKept
  intro s t h
  obtain ⟨-, d, hk⟩ := step_kind s t h
  obtain ⟨hcfg, hprogram⟩ := hk.cfg_program
  exact ⟨hcfg, hprogram, (step_transaction s t h).history_append⟩

/-! ### POLL at rest -/

/-- What the invariant says of POLL, the port and the memory while POLL is at rest and no call is outstanding. -/
structure AtRest (s : State) : Prop where
  pstate : s.poll.pstate ≠ .checking
  phase : s.poll.phase = .idle
  call : s.port.call = none
  budget : PollBudget s.cfg s.poll
  result : PollResult s.poll
  mem : Memory.wf s.mem = true

theorem AtRest.frame {s t : State} (h : AtRest s) (hcfg : t.cfg = s.cfg) (hpoll : t.poll = s.poll)
    (hcall : t.port.call = s.port.call) (hmem : Memory.wf t.mem = true) : AtRest t := by
  obtain ⟨h1, h2, h3, h4, h5, -⟩ := h
  exact ⟨hpoll ▸ h1, hpoll ▸ h2, hcall.trans h3, hcfg ▸ hpoll ▸ h4, hpoll ▸ h5, hmem⟩

/-- A client that has a step finds POLL at rest (20 R65). -/
theorem Consistent.atRest {s : State} (hs : Consistent s) (h : clientEnabled s = true) : AtRest s := by
  obtain ⟨hphase, hpstate, hcall⟩ := hs.sync.client_turn h
  exact ⟨hpstate, hphase, hcall, hs.budget, hs.result, hs.mem⟩

theorem callLegal_of_call_none {s : State} (h : s.port.call = none) : CallLegal s := by
  simp only [CallLegal, h]

/-- At rest, the invariant is what it says of a client that waits for nothing. -/
theorem AtRest.consistent {s : State} (h : AtRest s) (hdone : awaitsDone s.client = false)
    (hanswer : awaitsAnswer s.client = false) (hplace : fetchPlace s.client = true)
    (hfetch : beforeRead s.client = true → BufferZero s)
    (hclear : ∀ dst, s.client = .fetching dst .two false → s.port.busyHazard = false)
    (hcerr : s.cerr.isSome = true → s.cresult = .transport ∧ s.fstep = none) : Consistent s := by
  have hx : s.xowner = none := by rw [State.xowner, h.call]; rfl
  refine ⟨?sync, h.budget, h.result, callLegal_of_call_none h.call, h.mem, hfetch, hclear, hcerr⟩
  simp [Synchronous, h.pstate, h.phase, hx, hdone, hanswer, hplace]

/-- At rest, a client outside every fetch that waits for nothing needs nothing but its CERR. -/
theorem AtRest.consistent_of_no_fetch {s : State} (h : AtRest s) (hcl : s.client = .ready ∨ s.client = .finished)
    (hcerr : s.cerr.isSome = true → s.cresult = .transport) : Consistent s := by
  rcases hcl with hcl | hcl <;>
    exact h.consistent (by rw [hcl]; rfl) (by rw [hcl]; rfl) (by rw [hcl]; rfl) (by simp [hcl, beforeRead])
      (by simp [hcl]) (fun he => ⟨hcerr he, by simp only [State.fstep, hcl]⟩)

/-! ### Reset -/

theorem pollBudget_pollReset (c : Params) : PollBudget c pollReset := by simp [PollBudget, pollReset]

theorem pollResult_pollReset : PollResult pollReset := by decide

/-- Settles O58: after reset POLL is at rest and the client stands at a request. -/
theorem resetIsConsistent : Obligations.ResetIsConsistent := by
  unfold Obligations.ResetIsConsistent
  intro c program
  have hrest : AtRest { resetWith c with program := program } :=
    ⟨nofun, rfl, rfl, pollBudget_pollReset c, pollResult_pollReset, wf_nil⟩
  exact hrest.consistent_of_no_fetch (.inl rfl) nofun

/-! ### POLL in CHECKING -/

/-- What the invariant says, but for the outstanding call, while POLL is in CHECKING and the client waits for its Done. -/
structure Checking (s : State) : Prop where
  pstate : s.poll.pstate = .checking
  phase : s.poll.phase ≠ .idle
  client : awaitsDone s.client = true
  budget : PollBudget s.cfg s.poll
  result : PollResult s.poll
  mem : Memory.wf s.mem = true
  fetch : beforeRead s.client = true → BufferZero s
  cerr : s.cerr.isSome = true → s.cresult = .transport ∧ s.fstep = none

theorem Consistent.checking {s : State} (hs : Consistent s) (h : s.poll.pstate = .checking) : Checking s := by
  obtain ⟨hidle, hdone, -, -, -⟩ := hs.sync
  exact ⟨h, hidle.mp h, hdone.mp h, hs.budget, hs.result, hs.mem, hs.fetch, hs.cerr⟩

theorem awaitsDone_place (cl : ClientState) (h : awaitsDone cl = true) :
    awaitsAnswer cl = false ∧ fetchPlace cl = true ∧ ∀ dst, cl ≠ .fetching dst .two false := by
  refine ⟨?_, ?_, fun dst e => by rw [e] at h; cases h⟩
  · by_contra ha
    rw [not_awaitsDone_of_awaitsAnswer cl (by simpa using ha)] at h
    cases h
  · cases cl with
    | fetching dst k waiting => cases k <;> cases waiting <;> first | rfl | cases h
    | _ => rfl

/-- In CHECKING, the invariant is a legal call of POLL in WAIT_RSP, and no call outside it. -/
theorem Checking.consistent {s : State} (h : Checking s)
    (hx : s.xowner = if s.poll.phase = .waitRsp then some .poll else none) (hcall : CallLegal s) : Consistent s := by
  obtain ⟨hanswer, hplace, hclear⟩ := awaitsDone_place s.client h.client
  refine ⟨?sync, h.budget, h.result, hcall, h.mem, h.fetch, fun dst e => absurd e (hclear dst), h.cerr⟩
  refine ⟨by simp [h.pstate, h.phase], by simp [h.pstate, h.client], ?_, ?_, hplace⟩
  · rw [hx]; split <;> simp [*]
  · rw [hx, hanswer]; split <;> simp

theorem Checking.consistent_of_call_none {s : State} (h : Checking s) (hphase : s.poll.phase ≠ .waitRsp)
    (hcall : s.port.call = none) : Consistent s :=
  h.consistent (by rw [if_neg hphase, State.xowner, hcall]; rfl) (callLegal_of_call_none hcall)

/-! ### The registers of POLL after each transition (10 R25, R28, R29; 42 R175) -/

/-- A transition that ends the invocation keeps the budget. -/
theorem PollBudget.pollEnd {c : Params} {r : PollRegs} (h : PollBudget c r) (p : PState) (res : OpResult)
    (hp : p ≠ .checking) : PollBudget c (pollEnd r p res) := by
  obtain ⟨hle, -, -, -, -⟩ := h
  simp [PollBudget, hle, hp]

/-- START (42 R161). -/
theorem pollBudget_pollStart (c : Params) (r : PollRegs) (arg : Word) : PollBudget c (pollStart r arg) := by
  simp [PollBudget, Config.maxAttempts]

/-- ISSUE (42 R166). -/
theorem PollBudget.pollIssued {c : Params} {r : PollRegs} (h : PollBudget c r) (hphase : r.phase = .issue) (arg : Word) :
    PollBudget c (pollIssued c r arg) := by
  obtain ⟨-, hissue, -, -, harg⟩ := h
  have hlt := hissue hphase
  have hsucc := attempts_succ r.attempts hlt
  refine ⟨?_, by simp, fun _ => ?_, by simp, harg⟩ <;> rw [pollIssued_attempts, hsucc] <;> omega

/-- RSP_BUSY (42 R169): the delay comes after an attempt that leaves another, or by DELAY_AFTER_LAST. -/
theorem PollBudget.rspBusy {c : Params} {r : PollRegs} (h : PollBudget c r) (hphase : r.phase = .waitRsp) (img : Image)
    (hlast : r.attempts.toNat < Config.maxAttempts ∨ c.delayAfterLast = true) :
    PollBudget c { pollAnswered c r img with phase := .delay } := by
  obtain ⟨hle, -, hone, -, harg⟩ := h
  exact ⟨hle, by simp, fun _ => hone (.inl hphase), fun _ => hlast, harg⟩

/-- DLY_NEXT (42 R171). -/
theorem PollBudget.dlyNext {c : Params} {r : PollRegs} (h : PollBudget c r) (hlt : r.attempts.toNat < Config.maxAttempts) :
    PollBudget c { r with phase := .issue } := by
  obtain ⟨hle, -, -, -, harg⟩ := h
  exact ⟨hle, fun _ => hlt, by simp, by simp, harg⟩

/-- In CHECKING neither RESULT nor ERRCODE holds anything. -/
theorem PollResult.of_checking {r : PollRegs} (h : PollResult r) (hp : r.pstate = .checking) :
    r.result = .none ∧ r.errcode = none := by
  obtain ⟨hnone, -, -, -, herr, -, -, -⟩ := h
  have hr := hnone.mpr (.inr hp)
  exact ⟨hr, by simpa [hr] using herr⟩

theorem pollResult_checking {r : PollRegs} (hp : r.pstate = .checking) (hr : r.result = .none) (he : r.errcode = none)
    (hdelay : r.phase = .delay → lastReady r false = true) : PollResult r := by
  simpa [PollResult, hp, hr, he] using hdelay

/-- READY (42 R168, R175 (c)). -/
theorem pollResult_ready {r : PollRegs} (he : r.errcode = none) (hl : lastReady r true = true) :
    PollResult (pollEnd r .ready .ok) := by
  simpa [PollResult, he, lastReady] using hl

/-- EXHAUSTED (42 R170, R172, R175 (d)). -/
theorem pollResult_exhausted {r : PollRegs} (he : r.errcode = none) (ha : r.attempts.toNat = Config.maxAttempts)
    (hl : lastReady r false = true) : PollResult (pollEnd r .exhausted .timeout) := by
  simpa [PollResult, he, ha, lastReady] using hl

/-- FAILED (42 R167). -/
theorem pollResult_failed (r : PollRegs) (code : Word) :
    PollResult { pollEnd r .failed .transport with errcode := some code } := by
  simp [PollResult]

theorem lastReady_pollAnswered (c : Params) (r : PollRegs) (img : Image) :
    lastReady (pollAnswered c r img) (isReady (respOf c img).r0) = true := by
  simp [lastReady]

/-! ### A transition out of CHECKING, and inside it -/

/-- A Done ends an ENSURE_READY or a check of a fetch: an OK comes with BUSY_HAZARD clear (44 R233), and a code with TRANSPORT
(44 R230). -/
theorem AtRest.consistent_deliverDone {s : State} (h : AtRest s) {r : OpResult} {code : Option Word}
    (hdone : awaitsDone s.client = true) (hfetch : beforeRead s.client = true → BufferZero s)
    (hcerr : s.cerr.isSome = true → s.cresult = .transport ∧ s.fstep = none)
    (hok : r = .ok → s.port.busyHazard = false) (hcode : code.isSome = true → r = .transport) :
    Consistent (deliverDone r code s) := by
  have hrest : AtRest (deliverDone r code s) := h.frame (by simp) (by simp) (by simp) (by simpa using h.mem)
  rcases deliverDone_cases r code s with ⟨dst, hcl, e⟩ | ⟨dst, hcl, hr, e⟩ | ⟨dst, hcl, hr, e⟩ | ⟨dst, k, hcl, hk, hr, e⟩ |
    ⟨hno, -⟩
  · rw [e] at hrest ⊢
    exact hrest.consistent_of_no_fetch (.inl rfl) (fun he => (hcerr he).1)
  · rw [e] at hrest ⊢
    refine hrest.consistent rfl rfl rfl (fun _ => hfetch (by rw [hcl]; rfl)) (fun _ _ => hok hr) (fun he => ?_)
    simpa [State.fstep, hcl] using (hcerr he).2
  · rw [e] at hrest ⊢
    refine hrest.consistent_of_no_fetch (.inl rfl) (fun he => ?_)
    simpa [State.fstep, hcl] using (hcerr he).2
  · rw [e] at hrest ⊢
    exact hrest.consistent_of_no_fetch (.inl rfl) hcode
  · rw [hdone] at hno; cases hno

/-- A transition that ends the invocation. -/
theorem Checking.consistent_finish {s : State} (h : Checking s) (hcall : s.port.call = none) {r : PollRegs} {busy : Bool}
    {res : OpResult} {code : Option Word} (hpstate : r.pstate ≠ .checking) (hphase : r.phase = .idle)
    (hbudget : PollBudget s.cfg r) (hresult : PollResult r) (hok : res = .ok → busy = false)
    (hcode : code.isSome = true → res = .transport) : Consistent (applyPoll (pollFinish r busy res code) s) := by
  rw [applyPoll_done _ _ res code rfl]
  have hrest : AtRest (pollState (pollFinish r busy res code) s) := ⟨hpstate, hphase, hcall, hbudget, hresult, h.mem⟩
  exact hrest.consistent_deliverDone h.client h.fetch h.cerr hok hcode

/-- A transition into ISSUE or DELAY. -/
theorem Checking.consistent_stay {s : State} (h : Checking s) (hcall : s.port.call = none) {out : PollOut}
    (hdone : out.done = none) (hpstate : out.regs.pstate = .checking) (hphase : out.regs.phase = .issue ∨ out.regs.phase = .delay)
    (hbudget : PollBudget s.cfg out.regs) (hresult : PollResult out.regs) : Consistent (applyPoll out s) := by
  rw [applyPoll_none _ _ hdone]
  have hidle : out.regs.phase ≠ .idle := by rcases hphase with e | e <;> simp [e]
  have hwait : out.regs.phase ≠ .waitRsp := by rcases hphase with e | e <;> simp [e]
  have hcheck : Checking (pollState out s) :=
    ⟨hpstate, hidle, h.client, hbudget, hresult, h.mem, h.fetch, h.cerr⟩
  exact hcheck.consistent_of_call_none hwait hcall

/-- POLL's taking of an answer in WAIT_RSP (42 R167 to R170). -/
theorem Checking.consistent_pollTakes {s : State} (h : Checking s) (hcall : s.port.call = none)
    (hphase : s.poll.phase = .waitRsp) (img : Image) (err : Option Word) : Consistent (pollTakes img err s) := by
  obtain ⟨hr, he⟩ := h.result.of_checking h.pstate
  have hbudget : PollBudget s.cfg (pollAnswered s.cfg s.poll img) := h.budget
  have hlast := lastReady_pollAnswered s.cfg s.poll img
  cases err with
  | some code =>
    rw [pollTakes_err img code s h.pstate hphase]
    exact h.consistent_finish hcall nofun rfl (h.budget.pollEnd .failed .transport (by decide))
      (pollResult_failed s.poll code) nofun (fun _ => rfl)
  | none =>
    obtain ⟨out, ho⟩ := pollRspOk_some s.cfg s.poll s.port.busyHazard img h.budget.1
    rw [pollTakes_ok img s out h.pstate hphase ho]
    rcases pollRspOk_cases _ _ _ _ _ ho with ⟨hready, e⟩ | ⟨hready, hlt, e⟩ | ⟨hready, hmax, -, e⟩ <;> subst e <;>
      rw [hready] at hlast
    · exact h.consistent_finish hcall nofun rfl (hbudget.pollEnd .ready .ok (by decide))
        (pollResult_ready he hlast) (fun _ => rfl) nofun
    · exact h.consistent_stay hcall rfl h.pstate (.inr rfl) (h.budget.rspBusy hphase img hlt)
        (pollResult_checking h.pstate hr he (fun _ => hlast))
    · exact h.consistent_finish hcall nofun rfl (hbudget.pollEnd .exhausted .timeout (by decide))
        (pollResult_exhausted he hmax hlast) nofun nofun

/-- DelayDone (42 R171, R172). -/
theorem Consistent.delayDone {s : State} (hs : Consistent s) (hp : s.poll.pstate = .checking) (hd : s.poll.phase = .delay)
    {out : PollOut} (ho : pollDelayDone s.poll s.port.busyHazard = some out) :
    Consistent (applyPoll out (log [.delayDone] s)) := by
  have hcheck := hs.checking hp
  obtain ⟨hr, he⟩ := hcheck.result.of_checking hp
  obtain ⟨-, -, -, -, -, -, -, hlast⟩ := hs.result
  have hcall : s.port.call = none :=
    hs.sync.call_none (by rw [hd]; decide) (awaitsDone_place s.client hcheck.client).1
  have hcheck' : Checking (log [.delayDone] s) :=
    ⟨hp, hcheck.phase, hcheck.client, hs.budget, hs.result, hs.mem, hs.fetch, hs.cerr⟩
  rcases pollDelayDone_cases _ _ _ ho with ⟨hlt, e⟩ | ⟨hmax, e⟩ <;> subst e
  · exact hcheck'.consistent_stay hcall rfl hp (.inl rfl) (hs.budget.dlyNext hlt)
      (pollResult_checking hp hr he nofun)
  · exact hcheck'.consistent_finish hcall nofun rfl (hs.budget.pollEnd .exhausted .timeout (by decide))
      (pollResult_exhausted he hmax (hlast hd)) nofun nofun

/-! ### START and ISSUE -/

/-- START (42 R161), by a client that then waits for its Done: an ENSURE_READY, or a check of a fetch (44 R232, R234), whose first
check stands before the read and so needs the buffer zeroed. -/
theorem AtRest.consistent_start {s : State} (h : AtRest s) (dst : Fin 32) (arg : Word) {next : ClientState}
    (hdone : awaitsDone next = true) (hfetch : beforeRead next = true → BufferZero s)
    (hcerr : s.cerr.isSome = true →
      s.cresult = .transport ∧ State.fstep { s with client := next } = none) :
    Consistent { log [.req (.ensureReady dst arg)] s with poll := pollStart s.poll arg, client := next } := by
  have hcheck : Checking { log [.req (.ensureReady dst arg)] s with poll := pollStart s.poll arg, client := next } :=
    ⟨rfl, by simp, hdone, pollBudget_pollStart s.cfg s.poll arg, pollResult_checking rfl rfl rfl (by simp), h.mem, hfetch,
      hcerr⟩
  exact hcheck.consistent_of_call_none (by simp) h.call

/-- The status command of POLL is a CMD13 without a data phase (43 R200). -/
theorem callLegal_sendStatus (c : Params) (cl : ClientState) (arg : Word) :
    callLegal c cl ⟨.poll, sendStatusImg c arg⟩ = true := by
  obtain ⟨hop, hwrite, hblocks, -, -⟩ := sendStatusImg_fields c arg
  simp [callLegal, hop, hwrite, hblocks]

/-- ISSUE (42 R166). -/
theorem Consistent.issue {s : State} (hs : Consistent s) {arg : Word} (hen : pollEnabled s = true) :
    Consistent { admittedState .poll (sendStatusImg s.cfg arg) s with poll := pollIssued s.cfg s.poll arg } := by
  simp only [pollEnabled, Bool.and_eq_true, decide_eq_true_eq] at hen
  obtain ⟨-, hp, hphase⟩ := hen
  have h := hs.checking hp
  obtain ⟨hr, he⟩ := h.result.of_checking hp
  have hcheck : Checking { admittedState .poll (sendStatusImg s.cfg arg) s with poll := pollIssued s.cfg s.poll arg } :=
    ⟨hp, by simp, h.client, h.budget.pollIssued hphase arg, pollResult_checking hp hr he (by simp), h.mem, h.fetch, h.cerr⟩
  exact hcheck.consistent rfl (callLegal_sendStatus s.cfg s.client arg)

/-! ### The client's own steps -/

theorem bufferZero_zeroed (s : State) : BufferZero (writeMem s.cfg.bufAddr.toNat (List.replicate Config.extcsdBytes 0) s) := by
  intro k hk
  have hlen : (List.replicate Config.extcsdBytes (0 : Byte)).length = Config.extcsdBytes := List.length_replicate
  rw [writeMem_mem, writeMem_cfg, memByte_memStore, hlen, if_pos (by omega), Nat.add_sub_cancel_left]
  exact List.getElem?_replicate_of_lt hk

theorem memory_wf_zeroed {s : State} (h : Memory.wf s.mem = true) (ha : addrOk s.cfg.bufAddr.toNat Config.extcsdBytes = true) :
    Memory.wf (memStore s.mem s.cfg.bufAddr.toNat (List.replicate Config.extcsdBytes 0)) = true :=
  memStore_wf _ _ _ h (by rwa [List.length_replicate])

/-- A request that ends in its own step. -/
theorem Consistent.localStep {s t : State} (hs : Consistent s) (hen : clientEnabled s = true) (hcl : s.client = .ready)
    (hl : LocalStep s t) : Consistent t := by
  have hmem : Memory.wf t.mem = true := by
    rcases hl.mem with e | ⟨ha, e⟩ <;> rw [e]
    · exact hs.mem
    · exact memory_wf_zeroed hs.mem ha
  have hrest := (hs.atRest hen).frame hl.cfg hl.poll (congrArg _ hl.port) hmem
  refine hrest.consistent_of_no_fetch (hcl ▸ hl.client) (fun he => ?_)
  rw [hl.cresult]
  exact (hs.cerr (hl.cerr ▸ he)).1

/-- The first step of a FETCH_EXTCSD zeroes the buffer and clears CERR (44 R230, R231). -/
theorem Consistent.fetchFirst {s : State} (hs : Consistent s) (dst : Fin 32) (hen : clientEnabled s = true)
    (ha : addrOk s.cfg.bufAddr.toNat Config.extcsdBytes = true) :
    Consistent { writeMem s.cfg.bufAddr.toNat (List.replicate Config.extcsdBytes 0) s with
      cerr := none, client := .fetching dst .one false } := by
  have hrest : AtRest { writeMem s.cfg.bufAddr.toNat (List.replicate Config.extcsdBytes 0) s with
      cerr := none, client := .fetching dst .one false } :=
    (hs.atRest hen).frame rfl rfl rfl (memory_wf_zeroed hs.mem ha)
  exact hrest.consistent rfl rfl rfl (fun _ => bufferZero_zeroed s) nofun nofun

/-- An admitted command of the client passed the checks of admission; inside a fetch it is the CMD8 preset (43 R200; 44 R233). -/
theorem Admissible.callLegal_client {c : Params} {p : PortState} {img : Image} (h : Admissible c p img) (cl : ClientState)
    (hcl : (∃ dst src, cl = .awaitXfer dst src) ∨ img = sendExtCsdImg c c.bufAddr) : callLegal c cl ⟨.client, img⟩ = true := by
  have hdata : blocksOf c img ≠ 0 → (ptrOf c img).toNat % 8 = 0 ∧ inBuffer c (ptrOf c img).toNat (transferLen c img) = true :=
    fun hb => ⟨h.aligned hb, h.inside hb⟩
  unfold callLegal
  rw [decide_eq_true h.read, decide_eq_true hdata]
  rcases hcl with ⟨dst, src, rfl⟩ | himg
  · rfl
  · cases cl <;> simp [himg]

/-- A command of the client is admitted; the client then waits for its answer. -/
theorem Consistent.submit {s : State} (hs : Consistent s) (hen : clientEnabled s = true) {img : Image} {next : ClientState}
    (hanswer : awaitsAnswer next = true) (hplace : fetchPlace next = true) (hlegal : callLegal s.cfg next ⟨.client, img⟩ = true)
    (hfetch : beforeRead next = true → BufferZero s)
    (hcerr : s.cerr.isSome = true → s.cresult = .transport ∧ State.fstep { s with client := next } = none) :
    Consistent { admittedState .client img s with client := next } := by
  have hrest := hs.atRest hen
  have hdone := not_awaitsDone_of_awaitsAnswer next hanswer
  refine ⟨?sync, hrest.budget, hrest.result, hlegal, hrest.mem, hfetch, fun dst e => ?clear, hcerr⟩
  case sync =>
    have hx : State.xowner { admittedState .client img s with client := next } = some .client := rfl
    refine ⟨iff_of_false hrest.pstate (not_not_intro hrest.phase), iff_of_false hrest.pstate (by simp [hdone]), ?_,
      iff_of_true hx hanswer, hplace⟩
    exact iff_of_false (by rw [hx]; decide) (by show s.poll.phase ≠ _; rw [hrest.phase]; decide)
  case clear =>
    have e' : next = .fetching dst .two false := e
    rw [e'] at hanswer; cases hanswer

/-! ### The answers (43 R205 to R208) -/

/-- The answer to POLL's call moves no data, and POLL takes it (42 R167 to R170). -/
theorem Consistent.answerPoll {s : State} (hs : Consistent s) {img : Image} (hc : s.port.call = some ⟨.poll, img⟩)
    (a : Answer) (d : Nat) :
    Consistent (pollTakes (setResp s.cfg img a.resp) a.err (answerPort img a { s with draws := d })) := by
  obtain ⟨hp, hphase, -, -⟩ := hs.sync.poll_call hc
  have h := hs.checking hp
  have hlegal : callLegal s.cfg s.client ⟨.poll, img⟩ = true := by simpa only [CallLegal, hc] using hs.call
  have hblocks : blocksOf s.cfg img = 0 := by
    simp only [callLegal, Bool.and_eq_true, decide_eq_true_eq] at hlegal
    exact hlegal.2.2
  have hmem : (answerPort img a { s with draws := d }).mem = s.mem := by
    rw [answerPort_mem, transferBytes_nil _ _ _ hblocks]; rfl
  have hcheck : Checking (answerPort img a { s with draws := d }) :=
    ⟨hp, h.phase, h.client, h.budget, h.result, by rw [hmem]; exact h.mem,
      fun hb k hk => by rw [hmem]; exact h.fetch hb k hk, h.cerr⟩
  exact hcheck.consistent_pollTakes rfl hphase _ _

/-- The answer to the client's call ends its EXECUTE, or lets its fetch go on or ends it (44 R226, R233). -/
theorem Consistent.answerClient {s : State} (hs : Consistent s) {img : Image} (hc : s.port.call = some ⟨.client, img⟩)
    (a : Answer) (d : Nat) (ha : addrOk (ptrOf s.cfg img).toNat (transferBytes s.cfg img a).length = true) :
    Consistent (clientTakes (setResp s.cfg img a.resp) a.err (answerPort img a { s with draws := d })) := by
  obtain ⟨hanswer, hphase, hpstate⟩ := hs.sync.client_call hc
  have hrest : AtRest (clientTakes (setResp s.cfg img a.resp) a.err (answerPort img a { s with draws := d })) :=
    AtRest.frame (s := answerPort img a { s with draws := d })
      ⟨hpstate, hphase, rfl, hs.budget, hs.result, memStore_wf _ _ _ hs.mem ha⟩ (by simp) (by simp) (by simp)
      (by simpa using memStore_wf _ _ _ hs.mem ha)
  rcases clientTakes_cases (setResp s.cfg img a.resp) a.err (answerPort img a { s with draws := d }) with
    ⟨dst, src, hcl, e⟩ | ⟨dst, hcl, -, e⟩ | ⟨dst, code, hcl, -, e⟩ | ⟨hno, -⟩
  · rw [e] at hrest ⊢
    exact hrest.consistent_of_no_fetch (.inl rfl) (fun he => (hs.cerr he).1)
  · rw [e] at hrest ⊢
    have hcl' : s.client = .fetching dst .three true := hcl
    refine hrest.consistent rfl rfl rfl nofun nofun (fun he => ?_)
    simpa [State.fstep, hcl'] using (hs.cerr he).2
  · rw [e] at hrest ⊢
    exact hrest.consistent_of_no_fetch (.inl rfl) (fun _ => rfl)
  · have : awaitsAnswer s.client = false := hno
    rw [hanswer] at this; cases this

/-! ### Every step -/

/-- During a fetch CERR holds no value (44 R230). -/
theorem Consistent.cerr_none_of_fetching {s : State} (hs : Consistent s) {dst : Fin 32} {k : FStep} {w : Bool}
    (hcl : s.client = .fetching dst k w) : s.cerr.isSome ≠ true := fun he => by
  have := (hs.cerr he).2
  simp [State.fstep, hcl] at this

theorem StepKind.consistent {s t : State} (hk : StepKind s t) (hs : Consistent s) : Consistent t := by
  cases hk with
  | fault f e => subst e; exact hs.of_mark (some f) s.refused (s.history ++ [.fault f]) s.draws
  | refuse img _ _ _ e =>
    subst e; exact hs.of_mark s.fault (some (.writePathRefused .client)) (s.history ++ [.xferReq .client img]) s.draws
  | answerFault f e => subst e; exact hs.of_mark (some f) s.refused (s.history ++ [.fault f]) (s.draws + 1)
  | ends hen hcl hl => exact hs.localStep hen hcl hl
  | start dst arg next hen _ hnext e =>
    subst e
    have hrest := hs.atRest hen
    rcases hnext with ⟨hcl, rfl⟩ | ⟨hcl, rfl, -⟩ | ⟨hcl, rfl, -⟩
    · exact hrest.consistent_start dst arg rfl nofun (fun he => ⟨(hs.cerr he).1, rfl⟩)
    · exact hrest.consistent_start dst arg rfl (fun _ => hs.fetch (by rw [hcl]; rfl))
        (fun he => absurd he (hs.cerr_none_of_fetching hcl))
    · exact hrest.consistent_start dst arg rfl nofun
        (fun he => absurd he (hs.cerr_none_of_fetching hcl))
  | submit img next hen hadm hnext e =>
    subst e
    rcases hnext with ⟨_, dst, src, rfl, -⟩ | ⟨dst, hcl, rfl, himg⟩
    · exact hs.submit hen rfl rfl (hadm.callLegal_client _ (.inl ⟨dst, src, rfl⟩)) nofun
        (fun he => ⟨(hs.cerr he).1, rfl⟩)
    · exact hs.submit hen rfl rfl (hadm.callLegal_client _ (.inr himg)) (fun _ => hs.fetch (by rw [hcl]; rfl))
        (fun he => absurd he (hs.cerr_none_of_fetching hcl))
  | fetch dst hen _ ha e => subst e; exact hs.fetchFirst dst hen ha
  | fetchEnd dst hplace _ =>
    obtain ⟨-, -, -, -, hplace'⟩ := hs.sync
    rw [hplace] at hplace'; cases hplace'
  | issue arg hen _ _ e => subst e; exact hs.issue hen
  | answer call a hc ha e =>
    obtain ⟨o, img⟩ := call
    subst e
    cases o with
    | poll => exact hs.answerPoll hc a _
    | client => exact hs.answerClient hc a _ ha
  | timer out hp hd ho e => subst e; exact hs.delayDone hp hd ho

/-- Settles O57: each kind of step keeps the invariant, and the counter of draws is no part of it. -/
theorem everyStepKeepsConsistent : Obligations.EveryStepKeepsConsistent := by
  unfold Obligations.EveryStepKeepsConsistent
  intro s t hs h
  obtain ⟨-, d, hk⟩ := step_kind s t h
  exact hk.consistent (hs.of_mark s.fault s.refused s.history d)

end Sys2Proof.Machine
end

section
/-! Proofs of the statements on host memory (20 R50 to R54, R59, R63, R67): what a step can do to the memory is said once, in
`StepMemory`, and its canonical form and its range are read from there; then the accesses past the address space, the agents of
which at most one has a step, and the views of an image. -/

namespace Sys2Proof.Machine

/-! ### What a step does to the memory (20 R50, R51) -/

/-- What a step may leave in host memory: what was there, the zero-fill of the buffer, or the transfer of an answer. -/
inductive StepMemory (s : State) : List Host.Cell → Prop where
  | kept : StepMemory s s.mem
  | zeroed : clientEnabled s = true → addrOk s.cfg.bufAddr.toNat Config.extcsdBytes = true →
    StepMemory s (memStore s.mem s.cfg.bufAddr.toNat (List.replicate Config.extcsdBytes 0))
  | transferred (call : Call) (a : Answer) : s.port.call = some call →
    addrOk (ptrOf s.cfg call.image).toNat (transferBytes s.cfg call.image a).length = true →
    StepMemory s (memStore s.mem (ptrOf s.cfg call.image).toNat (transferBytes s.cfg call.image a))

theorem LocalStep.stepMemory {s t : State} (h : LocalStep s t) (hen : clientEnabled s = true) : StepMemory s t.mem := by
  rcases h.mem with e | ⟨ha, e⟩ <;> rw [e]
  · exact .kept
  · exact .zeroed hen ha

theorem StepKind.stepMemory {s t : State} (h : StepKind s t) : StepMemory s t.mem := by
  cases h with
  | ends hen _ hl => exact hl.stepMemory hen
  | fetch dst hen _ ha e => subst e; exact .zeroed hen ha
  | answer call a hc ha e =>
    have hmem : t.mem = memStore s.mem (ptrOf s.cfg call.image).toNat (transferBytes s.cfg call.image a) := by
      subst e; cases call.owner <;> simp
    rw [hmem]
    exact .transferred call a hc ha
  | timer out _ _ _ e => subst e; rw [applyPoll_mem]; exact .kept
  | _ => rename_i e; subst e; exact .kept

/-- The counter of draws has no part in what a step does to the memory. -/
theorem StepMemory.of_draws {s : State} {d : Nat} {m : List Host.Cell} (h : StepMemory { s with draws := d } m) :
    StepMemory s m := by
  cases h with
  | kept => exact .kept
  | zeroed hen ha => exact .zeroed hen ha
  | transferred call a hc ha => exact .transferred call a hc ha

theorem step_stepMemory (s t : State) (h : step s = .next t) : StepMemory s t.mem := by
  obtain ⟨-, d, hk⟩ := step_kind s t h
  exact hk.stepMemory.of_draws

/-- Each store a step makes stays within the address space, so it keeps the canonical form. -/
theorem StepMemory.wf {s : State} {m : List Host.Cell} (h : StepMemory s m) (hwf : Memory.wf s.mem = true) :
    Memory.wf m = true := by
  cases h with
  | kept => exact hwf
  | zeroed _ ha => exact memory_wf_zeroed hwf ha
  | transferred call a _ ha => exact memStore_wf _ _ _ hwf ha

/-- Settles O55, by what a step can do to the memory. -/
theorem memoryStaysCanonical : Obligations.MemoryStaysCanonical := by
  unfold Obligations.MemoryStaysCanonical
  intro s t hwf h
  exact (step_stepMemory s t h).wf hwf

/-! ### The range a step can change (20 R50, R52; 43 R202) -/

/-- A store whose bytes all lie in a range changes no byte outside it. -/
theorem memByte_memStore_of_outside (m : List Host.Cell) (a : Nat) (bs : List Byte) (lo hi x : Nat) (hlo : lo ≤ a)
    (hhi : a + bs.length ≤ hi) (hx : x < lo ∨ hi ≤ x) : memByte (memStore m a bs) x = memByte m x := by
  rw [memByte_memStore, if_neg (by omega)]

theorem memStore_nil (m : List Host.Cell) (a : Nat) : memStore m a [] = m := rfl

/-- A legal call with a data phase transfers inside the buffer (43 R202). -/
theorem transferLen_inside_of_callLegal {c : Params} {cl : ClientState} {call : Call} (h : callLegal c cl call = true)
    (hb : blocksOf c call.image ≠ 0) :
    c.bufAddr.toNat ≤ (ptrOf c call.image).toNat ∧
      (ptrOf c call.image).toNat + transferLen c call.image ≤ c.bufAddr.toNat + 512 := by
  simp only [callLegal, Bool.and_eq_true, decide_eq_true_eq] at h
  obtain ⟨⟨-, hdata⟩, -⟩ := h
  exact of_decide_eq_true (hdata hb).2

/-- POLL's call has no data phase (42 R166). -/
theorem blocksOf_of_callLegal_poll {c : Params} {cl : ClientState} {img : Image} (h : callLegal c cl ⟨.poll, img⟩ = true) :
    blocksOf c img = 0 := by
  simp only [callLegal, Bool.and_eq_true, decide_eq_true_eq] at h
  obtain ⟨-, -, hblocks⟩ := h
  exact hblocks

theorem Consistent.callLegal_of_call {s : State} (hs : Consistent s) {call : Call} (hc : s.port.call = some call) :
    callLegal s.cfg s.client call = true := by
  simpa only [CallLegal, hc] using hs.call

/-- No byte outside the buffer changes (20 R50). -/
theorem StepMemory.memByte_of_outside {s : State} {m : List Host.Cell} (h : StepMemory s m) (hs : Consistent s) (x : Nat)
    (hx : x < s.cfg.bufAddr.toNat ∨ s.cfg.bufAddr.toNat + 512 ≤ x) : memByte m x = memByte s.mem x := by
  cases h with
  | kept => rfl
  | zeroed =>
    exact memByte_memStore_of_outside _ _ _ _ _ x le_rfl (by rw [List.length_replicate, Config.extcsdBytes]) hx
  | transferred call a hc =>
    by_cases hb : blocksOf s.cfg call.image = 0
    · rw [transferBytes_nil _ _ _ hb, memStore_nil]
    · obtain ⟨hlo, hhi⟩ := transferLen_inside_of_callLegal (hs.callLegal_of_call hc) hb
      exact memByte_memStore_of_outside _ _ _ _ _ x hlo (by rwa [transferBytes_length, if_neg hb]) hx

/-- While POLL is at work the client has no step and the outstanding call is POLL's, which moves no data. -/
theorem StepMemory.eq_of_checking {s : State} {m : List Host.Cell} (h : StepMemory s m) (hs : Consistent s)
    (hp : s.poll.pstate = .checking) : m = s.mem := by
  cases h with
  | kept => rfl
  | zeroed hen =>
    obtain ⟨-, hrest, -⟩ := hs.sync.client_turn hen
    exact absurd hp hrest
  | transferred call a hc =>
    obtain ⟨o, img⟩ := call
    cases o with
    | poll => rw [transferBytes_nil _ _ _ (blocksOf_of_callLegal_poll (hs.callLegal_of_call hc)), memStore_nil]
    | client =>
      obtain ⟨-, -, hrest⟩ := hs.sync.client_call hc
      exact absurd hp hrest

/-- Settles O56: the zero-fill and the transfer of a legal call lie in the buffer, and POLL at work admits neither. -/
theorem hostMemoryChangesInTheBufferOnly : Obligations.HostMemoryChangesInTheBufferOnly := by
  unfold Obligations.HostMemoryChangesInTheBufferOnly
  intro s t hs h
  have hm := step_stepMemory s t h
  exact ⟨hm.memByte_of_outside hs, hm.eq_of_checking hs⟩

/-! ### The descriptor decoded from an image (20 R67; 30 R81 to R83) -/

/-- Settles O50: a preset is decoded only from an image it equals, and the control call carries the image itself. -/
theorem decodedImageIsPerformed : Obligations.DecodedImageIsPerformed := by
  unfold Obligations.DecodedImageIsPerformed
  intro c img
  unfold decodeImage
  split
  next h => exact congrArg some h.symm
  next =>
    split
    next h => exact congrArg some h.symm
    next => rfl

/-! ### At most one agent has a step (20 R63; 44 R220) -/

theorem enabled_length (s : State) :
    (enabled s).length = (clientEnabled s).toNat + (pollEnabled s).toNat + (transportEnabled s).toNat +
      (timerEnabled s).toNat := by
  have len : ∀ (b : Bool) (a : Agent), (if b = true then [a] else []).length = b.toNat := fun b _ => by
    cases b <;> rfl
  simp only [enabled, List.length_append, len]

/-- POLL has a step only in ISSUE. -/
theorem pollEnabled_eq_false {s : State} (h : s.poll.phase ≠ .issue) : pollEnabled s = false := by
  simp [pollEnabled, h]

/-- The timer has a step only in DELAY. -/
theorem timerEnabled_eq_false {s : State} (h : s.poll.phase ≠ .delay) : timerEnabled s = false := by
  simp [timerEnabled, h]

/-- The client has a step only while POLL is at rest. -/
theorem Synchronous.clientEnabled_eq_false {s : State} (hs : Synchronous s) (h : s.poll.phase ≠ .idle) :
    clientEnabled s = false :=
  Bool.eq_false_iff.mpr fun he => h (hs.client_turn he).1

/-- The transport has a step only for a POLL in WAIT_RSP, or for the client while POLL is at rest. -/
theorem Synchronous.transportEnabled_eq_false {s : State} (hs : Synchronous s) (hwait : s.poll.phase ≠ .waitRsp)
    (hidle : s.poll.phase ≠ .idle) : transportEnabled s = false := by
  refine Bool.eq_false_iff.mpr fun he => ?_
  obtain ⟨⟨o, img⟩, hc⟩ := Option.isSome_iff_exists.mp he
  cases o with
  | poll =>
    obtain ⟨-, hphase, -⟩ := hs.poll_call hc
    exact hwait hphase
  | client =>
    obtain ⟨-, hphase, -⟩ := hs.client_call hc
    exact hidle hphase

/-- Settles O59: PHASE tells POLL, the transport and the timer apart, and the client's step needs PHASE = IDLE and no call. -/
theorem atMostOneAgentHasAStep : Obligations.AtMostOneAgentHasAStep := by
  unfold Obligations.AtMostOneAgentHasAStep
  intro s hs
  have hclient := hs.sync.clientEnabled_eq_false
  have htransport := hs.sync.transportEnabled_eq_false
  rw [enabled_length]
  cases hphase : s.poll.phase with
  | idle =>
    have hpoll : pollEnabled s = false := pollEnabled_eq_false (by simp [hphase])
    have htimer : timerEnabled s = false := timerEnabled_eq_false (by simp [hphase])
    cases he : clientEnabled s with
    | false => simp [hpoll, htimer, Bool.toNat_le]
    | true =>
      obtain ⟨-, -, hcall⟩ := hs.sync.client_turn he
      simp [hpoll, htimer, transportEnabled, hcall]
  | issue => simp [hphase, hclient, htransport, timerEnabled_eq_false, Bool.toNat_le]
  | waitRsp => simp [hphase, hclient, pollEnabled_eq_false, timerEnabled_eq_false, Bool.toNat_le]
  | delay => simp [hphase, hclient, htransport, pollEnabled_eq_false, Bool.toNat_le]

/-! ### Views of an image (20 R54) -/

/-- Four bytes below a word are the word they make below it. -/
theorem append_four_bytes (w : Word) (b3 b2 b1 b0 : Byte) : w ++ b3 ++ b2 ++ b1 ++ b0 = w ++ (b3 ++ b2 ++ b1 ++ b0) := by
  ext i
  simp only [BitVec.getElem_append]
  grind

/-- The u64 of eight bytes is the u32 of the four at the higher addresses above that of the four at the lower. -/
theorem assemble64_little (b0 b1 b2 b3 b4 b5 b6 b7 : Byte) :
    assemble64 .little b0 b1 b2 b3 b4 b5 b6 b7 = assemble32 .little b4 b5 b6 b7 ++ assemble32 .little b0 b1 b2 b3 :=
  append_four_bytes (assemble32 .little b4 b5 b6 b7) b3 b2 b1 b0

/-- The u64 of eight bytes is the u32 of the four at the lower addresses above that of the four at the higher. -/
theorem assemble64_big (b0 b1 b2 b3 b4 b5 b6 b7 : Byte) :
    assemble64 .big b0 b1 b2 b3 b4 b5 b6 b7 = assemble32 .big b0 b1 b2 b3 ++ assemble32 .big b4 b5 b6 b7 :=
  append_four_bytes (assemble32 .big b0 b1 b2 b3) b4 b5 b6 b7

/-- The four response words stand one after the other, in both layouts (30 R73). -/
theorem fieldOff_resp (l : Layout) :
    fieldOff l .resp1 = fieldOff l .resp0 + 4 * 1 ∧ fieldOff l .resp2 = fieldOff l .resp0 + 4 * 2 ∧
      fieldOff l .resp3 = fieldOff l .resp0 + 4 * 3 := by
  cases l <;> decide

/-- Settles O6: the response words are consecutive, and a u64 is two u32 in the byte order. -/
theorem mixedWidthViewsAgree : Obligations.MixedWidthViewsAgree := by
  unfold Obligations.MixedWidthViewsAgree
  intro c img
  obtain ⟨h1, h2, h3⟩ := fieldOff_resp c.layout
  refine ⟨?_, rfl, assemble64_little .., assemble64_big ..⟩
  simp only [respOf, getField, h1, h2, h3, Nat.mul_zero, Nat.add_zero]

/-! ### Accesses past 2^64-1 (20 R51) -/

theorem addrOk_of_past {a n : Nat} (h : 2 ^ 64 < a + n) : addrOk a n = false := decide_eq_false (by omega)

theorem zeroFill_of_past (k : State → State) (s : State) (h : 2 ^ 64 < s.cfg.bufAddr.toNat + 512) :
    zeroFill k s = raise (.bufferOutOfRange s.cfg.bufAddr.toNat 1 Config.extcsdBytes) s :=
  if_neg (by rw [Config.extcsdBytes, addrOk_of_past h]; exact Bool.false_ne_true)

theorem withMem32_of_past (a : Nat) (k : Word → State → State) (s : State) (h : 2 ^ 64 < a + 4) :
    withMem32 a k s = raise (.bufferOutOfRange a 1 4) s :=
  if_neg (by rw [addrOk_of_past h]; exact Bool.false_ne_true)

theorem exec_zeroBuf_of_past (s : State) (h : 2 ^ 64 < s.cfg.bufAddr.toNat + 512) :
    exec .zeroBuf s = .next (raise (.bufferOutOfRange s.cfg.bufAddr.toNat 1 Config.extcsdBytes) s) :=
  congrArg Host.Outcome.next (zeroFill_of_past _ s h)

theorem exec_fetchExtcsd_of_past (dst : Fin 32) (s : State) (h : 2 ^ 64 < s.cfg.bufAddr.toNat + 512) :
    exec (.fetchExtcsd dst) s = .next (raise (.bufferOutOfRange s.cfg.bufAddr.toNat 1 Config.extcsdBytes) s) :=
  congrArg Host.Outcome.next (zeroFill_of_past _ s h)

theorem exec_readBuf_of_past (dst : Fin 32) (off : Word) (s : State) (h4 : off.toNat % 4 = 0) (hle : off.toNat ≤ 508)
    (h : 2 ^ 64 < s.cfg.bufAddr.toNat + off.toNat + 4) :
    exec (.readBuf dst off) s = .next (raise (.bufferOutOfRange (s.cfg.bufAddr.toNat + off.toNat) 1 4) s) := by
  have hlegal : (Instr.readBuf dst off).wellFormed = true := decide_eq_true ⟨h4, hle⟩
  rw [exec, execReadBuf, ifLegal, if_pos hlegal, withMem32_of_past _ _ s h]

/-- An answer whose transfer would pass 2^64-1 is not delivered, whatever was drawn and whoever waits (log 17). -/
theorem answerCall_of_past (o : Owner) (img : Image) (a : Answer) (s : State) (hb : blocksOf s.cfg img ≠ 0)
    (h : 2 ^ 64 < (ptrOf s.cfg img).toNat + transferLen s.cfg img) :
    answerCall o img a s =
      raise (.bufferOutOfRange (ptrOf s.cfg img).toNat (blocksOf s.cfg img).toNat (blkszOf s.cfg img).toNat) s :=
  if_neg (by rw [transferBytes_length, if_neg hb, addrOk_of_past h]; exact Bool.false_ne_true)

/-- A row of the transport that performs the outstanding image is its answer; the draw comes before the check (log 14). -/
theorem exec_of_performs_of_past (s : State) (call : Call) (i : Instr) (hc : s.port.call = some call)
    (hp : performs s.cfg call.image i = some call.image) (hb : blocksOf s.cfg call.image ≠ 0)
    (h : 2 ^ 64 < (ptrOf s.cfg call.image).toNat + transferLen s.cfg call.image) :
    exec i s = .next (raise (.bufferOutOfRange (ptrOf s.cfg call.image).toNat (blocksOf s.cfg call.image).toNat
      (blkszOf s.cfg call.image).toNat) { s with draws := s.draws + 1 }) := by
  rw [exec_of_performs s call i call.image hc hp, performCall, hc]
  exact congrArg Host.Outcome.next (answerCall_of_past _ _ _ { s with draws := s.draws + 1 } hb h)

/-- Settles O42: the zero-fill, the read of a word and the transfer of an answer each check their range before any effect. -/
theorem accessesPastTheAddressSpaceFault : Obligations.AccessesPastTheAddressSpaceFault := by
  unfold Obligations.AccessesPastTheAddressSpaceFault
  intro s
  refine ⟨fun h => ⟨_, ?_, exec_zeroBuf_of_past s h, fun dst => exec_fetchExtcsd_of_past dst s h⟩,
    fun dst off h4 hle h => ⟨_, ?_, exec_readBuf_of_past dst off s h4 hle h⟩,
    fun call i hc hp hb h => ⟨_, ?_, exec_of_performs_of_past s call i hc hp hb h⟩⟩ <;> rfl

end Sys2Proof.Machine
end

section
/-! Proofs of the statements on encodings (30 R71 to R73, R81, R83, R86 to R89; 40 R100): the encoder and the decoder are inverse to
each other, the decoder accepts exactly the frames of R89, and where the fields of a descriptor stand. -/

namespace Sys2Proof.Machine

/-! ### Decoding an encoded request (30 R86 to R88) -/

/-- A frame decodes as its row of the OPSEL map does, since OPSEL, DST and SRC each fit in a byte of the header. -/
theorem decodeFrame_of_decodeOpsel {o d s : Nat} {ops : List Word} {p : Instr × List Word}
    (h : decodeOpsel o d s ops = .ok p) (ho : o < 256 := by omega) (hd : d < 256 := by omega) (hs : s < 256 := by omega) :
    decodeFrame (header o d s :: ops) = .ok p := by
  rw [decodeFrame_header o d s ops ho hd hs, h]

@[simp] theorem ok_bind {α β : Type} (a : α) (f : α → Except Reject β) : (Except.ok a >>= f) = f a := rfl

/-- PACK's sixteen words give its record back, the pointer put together from its two words (30 R84, R88). -/
theorem decPack_fieldWords (d : Fin 16) (f : Fields) (rest : List Word) :
    decPack d 0 (fieldWords f ++ rest) = .ok (.pack d f, rest) := by
  simp [decPack, fieldWords, high_low]

/-! UNPACK, READ_STATUS and READ_BUF check one thing more than their fields, which `wellFormed` says (30 R89). -/

theorem decUnpack_of_wellFormed (d : Fin 32) (s : Fin 16) (ops : List Word) (h : (Instr.unpack d s).wellFormed = true) :
    decUnpack d s ops = .ok (.unpack d s, ops) := by
  have hd : d.val ≤ 16 := of_decide_eq_true h
  simp [decUnpack, hd]

theorem decReadStatus_of_wellFormed (d : Fin 32) (r : Fin 8) (ops : List Word)
    (h : (Instr.readStatus d r).wellFormed = true) : decReadStatus d r ops = .ok (.readStatus d r, ops) := by
  have hd : r.val = 7 → d.val ≤ 15 := of_decide_eq_true h
  have hn : ¬ (r.val = 7 ∧ 15 < d.val) := by omega
  simp [decReadStatus, hn]

theorem decReadBuf_of_wellFormed (d : Fin 32) (off : Word) (rest : List Word)
    (h : (Instr.readBuf d off).wellFormed = true) : decReadBuf d 0 (off :: rest) = .ok (.readBuf d off, rest) := by
  have ho : off.toNat % 4 = 0 ∧ off.toNat ≤ 508 := of_decide_eq_true h
  simp [decReadBuf, ho]

/-- Decoding the frame of a legal request gives it back and leaves the words after it. -/
theorem decodeFrame_frameWords_append (i : Instr) (rest : List Word) (hw : i.wellFormed = true)
    (hr : isRequest i = true) : decodeFrame (frameWords i ++ rest) = .ok (i, rest) := by
  cases i with
  | sendStatusDesc | sendExtCsdDesc | mmcControlCall => cases hr
  | pack d f => exact decodeFrame_of_decodeOpsel (decPack_fieldWords d f rest)
  | unpack d s => exact decodeFrame_of_decodeOpsel (decUnpack_of_wellFormed d s rest hw)
  | readStatus d r => exact decodeFrame_of_decodeOpsel (decReadStatus_of_wellFormed d r rest hw)
  | readBuf d off => exact decodeFrame_of_decodeOpsel (decReadBuf_of_wellFormed d off rest hw)
  | halt | zeroBuf => exact decodeFrame_of_decodeOpsel rfl
  | build => exact decodeFrame_of_decodeOpsel (by simp [decodeOpsel, decBuild])
  | withTimeout => exact decodeFrame_of_decodeOpsel (by simp [decodeOpsel, decWithTimeout])
  | withData => exact decodeFrame_of_decodeOpsel (by simp [decodeOpsel, decWithData, high_low])
  | rfd => exact decodeFrame_of_decodeOpsel (by simp [decodeOpsel, decRfd])
  | cstate => exact decodeFrame_of_decodeOpsel (by simp [decodeOpsel, decCstate])
  | isReady => exact decodeFrame_of_decodeOpsel (by simp [decodeOpsel, decIsReady])
  | ensureReady => exact decodeFrame_of_decodeOpsel (by simp [decodeOpsel, decEnsureReady])
  | execute => exact decodeFrame_of_decodeOpsel (by simp [decodeOpsel, decExecute])
  | movi => exact decodeFrame_of_decodeOpsel (by simp [decodeOpsel, decMovi])
  | jz => exact decodeFrame_of_decodeOpsel (by simp [decodeOpsel, decJz])
  | jnz => exact decodeFrame_of_decodeOpsel (by simp [decodeOpsel, decJnz])
  | fetchExtcsd => exact decodeFrame_of_decodeOpsel (by simp [decodeOpsel, decFetchExtcsd])

/-! ### Decoding an encoded preset (30 R81; 40 R110, R111) -/

/-- A CMD8 preset is no CMD13 preset, whatever their operands: their opcodes differ. -/
theorem setResp_sendExtCsdImg_ne (c : Params) (p : DWord) (arg : Word) (r r' : Resp) :
    setResp c (sendExtCsdImg c p) r ≠ setResp c (sendStatusImg c arg) r' := by
  intro h
  have ho := congrArg (fun img => getField c img .opcode) h
  simp [getField_setResp, sendExtCsdImg, sendStatusImg, getField_withDataImg, getField_buildImg, Config.opcSendExtCsd,
    Config.opcSendStatus] at ho

theorem decodeImage_sendStatusImg (c : Params) (arg : Word) (r : Resp) :
    decodeImage c (setResp c (sendStatusImg c arg) r) = .sendStatusDesc arg r := by
  have harg : argOf c (setResp c (sendStatusImg c arg) r) = arg := by
    simp [argOf, getField_setResp, sendStatusImg, getField_buildImg]
  simp [decodeImage, harg]

theorem decodeImage_sendExtCsdImg (c : Params) (r : Resp) (p : DWord) :
    decodeImage c (setResp c (sendExtCsdImg c p) r) = .sendExtCsdDesc r p := by
  have hp : ptrOf c (sendExtCsdImg c p) = p := ptrOf_withDataImg ..
  simp [decodeImage, setResp_sendExtCsdImg_ne, hp]

/-! ### Every instruction in its own format -/

theorem encode_of_isRequest (c : Params) (i : Instr) (h : isRequest i = true) : encode c i = .frame (frameWords i) := by
  cases i with
  | sendStatusDesc | sendExtCsdDesc | mmcControlCall => cases h
  | _ => rfl

theorem decode_encode (c : Params) (i : Instr) (hw : i.wellFormed = true) : decode c (encode c i) = .ok i := by
  by_cases hr : isRequest i = true
  · have hd := decodeFrame_frameWords_append i [] hw hr
    rw [List.append_nil] at hd
    rw [encode_of_isRequest c i hr, decode, hd]
    rfl
  · cases i with
    | sendStatusDesc arg r => exact congrArg Except.ok (decodeImage_sendStatusImg c arg r)
    | sendExtCsdDesc r p => exact congrArg Except.ok (decodeImage_sendExtCsdImg c r p)
    | mmcControlCall => rfl
    | _ => exact absurd rfl hr

/-- Settles O1: each format's decoder gives back what its encoder wrote. -/
theorem everyInstructionRoundTrips : Obligations.EveryInstructionRoundTrips := by
  unfold Obligations.EveryInstructionRoundTrips
  exact ⟨decode_encode, decodeFrame_frameWords_append⟩

/-! ### Encoding what was decoded (30 R81, R86, R87) -/

/-- Every frame is as long as its row says, and its OPSEL tells how long. -/
theorem encodedLength (i : Instr) : Laws.EncodedLength.Statement i := by
  cases i with
  | halt => exact Laws.EncodedLength.halt
  | build => exact Laws.EncodedLength.build ..
  | withTimeout => exact Laws.EncodedLength.withTimeout ..
  | withData => exact Laws.EncodedLength.withData ..
  | pack => exact Laws.EncodedLength.pack ..
  | unpack => exact Laws.EncodedLength.unpack ..
  | rfd => exact Laws.EncodedLength.rfd ..
  | cstate => exact Laws.EncodedLength.cstate ..
  | isReady => exact Laws.EncodedLength.isReady ..
  | ensureReady => exact Laws.EncodedLength.ensureReady ..
  | readStatus => exact Laws.EncodedLength.readStatus ..
  | execute => exact Laws.EncodedLength.execute ..
  | zeroBuf => exact Laws.EncodedLength.zeroBuf
  | readBuf => exact Laws.EncodedLength.readBuf ..
  | movi => exact Laws.EncodedLength.movi ..
  | jz => exact Laws.EncodedLength.jz ..
  | jnz => exact Laws.EncodedLength.jnz ..
  | fetchExtcsd => exact Laws.EncodedLength.fetchExtcsd ..
  | sendStatusDesc => exact Laws.EncodedLength.sendStatusDesc ..
  | sendExtCsdDesc => exact Laws.EncodedLength.sendExtCsdDesc ..
  | mmcControlCall => exact Laws.EncodedLength.mmcControlCall

/-- A frame that decodes is the frame of a legal request, with the words after it. -/
theorem frameWords_of_decodeFrame {ws rest : List Word} {i : Instr} (h : decodeFrame ws = .ok (i, rest)) :
    i.wellFormed = true ∧ isRequest i = true ∧ ws = frameWords i ++ rest := by
  obtain ⟨hd, ops, rfl, hhigh, ho⟩ := decodeFrame_ok ws i rest h
  obtain ⟨hr, hw, hwords⟩ := decodeOpsel_ok _ _ _ _ _ _ ho
  rw [header_eq hd hhigh] at hwords
  exact ⟨hw, hr, hwords⟩

theorem opselLength_head_frameWords (i : Instr) (rest : List Word) (hr : isRequest i = true) :
    ∃ h, (frameWords i ++ rest).head? = some h ∧ opselLength (hdrOpsel h) = some (frameLength i) := by
  obtain ⟨-, hopsel, -⟩ := encodedLength i
  obtain ⟨h, hh, hl⟩ := Option.bind_eq_some_iff.mp (hopsel hr)
  exact ⟨h, by rw [List.head?_append, hh, Option.some_or], hl⟩

/-- Only an image equal to a preset decodes to it. -/
theorem encode_decodeImage (c : Params) (img : Image) (h : decodeImage c img ≠ .mmcControlCall) :
    encode c (decodeImage c img) = .image img := by
  unfold decodeImage at h ⊢
  split
  next hs => exact congrArg Code.image hs.symm
  next hs =>
    split
    next he => exact congrArg Code.image he.symm
    next he => exact absurd (by rw [if_neg hs, if_neg he]) h

/-- Settles O2: a frame that decodes is the frame of what it decodes to, and a preset is decoded only from its own image. -/
theorem decodedCodesEncodeBack : Obligations.DecodedCodesEncodeBack := by
  unfold Obligations.DecodedCodesEncodeBack
  refine ⟨fun ws i rest h => ?_, encode_decodeImage⟩
  obtain ⟨hw, hr, rfl⟩ := frameWords_of_decodeFrame h
  exact ⟨hw, hr, rfl, (encodedLength i).1, opselLength_head_frameWords i rest hr⟩

/-! ### The frames the decoder accepts (30 R86, R87, R89) -/

theorem isOk_iff {α : Type} (x : Except Reject α) : x.isOk = true ↔ ∃ a, x = .ok a := by
  cases x <;> simp [Except.isOk, Except.toBool]

@[simp] theorem isOk_ok {α : Type} (a : α) : (Except.ok a : Except Reject α).isOk = true := rfl
@[simp] theorem isOk_error {α : Type} (e : Reject) : (Except.error e : Except Reject α).isOk = false := rfl

/-- Every decoder checks two fields, and what it checks after them does not depend on what they name. -/
theorem isOk_bind_bind {α β γ : Type} (x : Except Reject α) (y : Except Reject β) (f : α → β → Except Reject γ) (b : Bool)
    (h : ∀ a c, (f a c).isOk = b) : (x >>= fun a => y >>= f a).isOk = (x.isOk && y.isOk && b) := by
  cases x with
  | error => rfl
  | ok a =>
    cases y with
    | error => rfl
    | ok c => exact h a c

/-! A field is accepted exactly where its kind allows it. -/

@[simp] theorem isOk_needCd (n : Nat) : (needCd n).isOk = FieldKind.cd.allows n := by
  unfold needCd
  split <;> simp [FieldKind.allows] <;> omega

@[simp] theorem isOk_needCw (n : Nat) : (needCw n).isOk = FieldKind.cw.allows n := by
  unfold needCw
  split <;> simp [FieldKind.allows] <;> omega

@[simp] theorem isOk_needReg (n : Nat) : (needReg n).isOk = FieldKind.reg.allows n := by
  unfold needReg
  split <;> simp [FieldKind.allows] <;> omega

@[simp] theorem isOk_needZero (n : Nat) : (needZero n).isOk = FieldKind.zero.allows n := by
  unfold needZero
  split <;> simp [FieldKind.allows] <;> omega

/-! Each row's decoder accepts exactly the fields and the operand words of its row. -/

@[simp] theorem isOk_decHalt (d s : Nat) (ops : List Word) :
    (decHalt d s ops).isOk = (FieldKind.zero.allows d && FieldKind.zero.allows s) := by
  simp [decHalt, isOk_bind_bind]

@[simp] theorem isOk_decBuild (d s : Nat) (ops : List Word) :
    (decBuild d s ops).isOk = (FieldKind.cd.allows d && FieldKind.zero.allows s && decide (3 ≤ ops.length)) := by
  rcases ops with _ | ⟨_, _ | ⟨_, _ | ⟨_, rest⟩⟩⟩ <;> simp [decBuild, isOk_bind_bind]

@[simp] theorem isOk_decWithTimeout (d s : Nat) (ops : List Word) :
    (decWithTimeout d s ops).isOk = (FieldKind.cd.allows d && FieldKind.cd.allows s && decide (2 ≤ ops.length)) := by
  rcases ops with _ | ⟨_, _ | ⟨_, rest⟩⟩ <;> simp [decWithTimeout, isOk_bind_bind]

@[simp] theorem isOk_decWithData (d s : Nat) (ops : List Word) :
    (decWithData d s ops).isOk = (FieldKind.cd.allows d && FieldKind.cd.allows s && decide (4 ≤ ops.length)) := by
  rcases ops with _ | ⟨_, _ | ⟨_, _ | ⟨_, _ | ⟨_, rest⟩⟩⟩⟩ <;> simp [decWithData, isOk_bind_bind]

@[simp] theorem isOk_decPack (d s : Nat) (ops : List Word) :
    (decPack d s ops).isOk = (FieldKind.cd.allows d && FieldKind.zero.allows s && decide (16 ≤ ops.length)) := by
  iterate 16
    rcases ops with _ | ⟨_, ops⟩
    · simp [decPack]
  simp [decPack, isOk_bind_bind]

@[simp] theorem isOk_decUnpack (d s : Nat) (ops : List Word) :
    (decUnpack d s ops).isOk = (FieldKind.cwBase.allows d && FieldKind.cd.allows s) := by
  rw [decUnpack, isOk_bind_bind _ _ _ (decide (d ≤ 16)) (fun _ _ => by split <;> simp [*])]
  rw [isOk_needCw, isOk_needCd, Bool.eq_iff_iff]
  simp only [FieldKind.allows, Bool.and_eq_true, decide_eq_true_eq]
  omega

@[simp] theorem isOk_decRfd (d s : Nat) (ops : List Word) :
    (decRfd d s ops).isOk = (FieldKind.cw.allows d && FieldKind.cw.allows s) := by
  simp [decRfd, isOk_bind_bind]

@[simp] theorem isOk_decCstate (d s : Nat) (ops : List Word) :
    (decCstate d s ops).isOk = (FieldKind.cw.allows d && FieldKind.cw.allows s) := by
  simp [decCstate, isOk_bind_bind]

@[simp] theorem isOk_decIsReady (d s : Nat) (ops : List Word) :
    (decIsReady d s ops).isOk = (FieldKind.cw.allows d && FieldKind.cw.allows s) := by
  simp [decIsReady, isOk_bind_bind]

@[simp] theorem isOk_decEnsureReady (d s : Nat) (ops : List Word) :
    (decEnsureReady d s ops).isOk = (FieldKind.cw.allows d && FieldKind.zero.allows s && decide (1 ≤ ops.length)) := by
  rcases ops with _ | ⟨_, rest⟩ <;> simp [decEnsureReady, isOk_bind_bind]

@[simp] theorem isOk_decReadStatus (d s : Nat) (ops : List Word) :
    (decReadStatus d s ops).isOk =
      (FieldKind.cw.allows d && FieldKind.reg.allows s && decide (s = 7 → d ≤ 15)) := by
  rw [decReadStatus, isOk_bind_bind _ _ _ (decide (s = 7 → d ≤ 15)) (fun _ _ => by split <;> simp <;> omega),
    isOk_needReg, isOk_needCw, Bool.and_comm (FieldKind.reg.allows s)]

@[simp] theorem isOk_decExecute (d s : Nat) (ops : List Word) :
    (decExecute d s ops).isOk = (FieldKind.cw.allows d && FieldKind.cd.allows s) := by
  simp [decExecute, isOk_bind_bind]

@[simp] theorem isOk_decZeroBuf (d s : Nat) (ops : List Word) :
    (decZeroBuf d s ops).isOk = (FieldKind.zero.allows d && FieldKind.zero.allows s) := by
  simp [decZeroBuf, isOk_bind_bind]

@[simp] theorem isOk_decReadBuf (d s : Nat) (ops : List Word) :
    (decReadBuf d s ops).isOk =
      (FieldKind.cw.allows d && FieldKind.zero.allows s && decide (1 ≤ ops.length) &&
        decide (∀ off ∈ ops.head?, off.toNat % 4 = 0 ∧ off.toNat ≤ 508)) := by
  rcases ops with _ | ⟨off, rest⟩
  · simp [decReadBuf]
  · rw [decReadBuf, isOk_bind_bind _ _ _ (decide (off.toNat % 4 = 0 ∧ off.toNat ≤ 508))
      (fun _ _ => by split <;> simp [*])]
    simp

@[simp] theorem isOk_decMovi (d s : Nat) (ops : List Word) :
    (decMovi d s ops).isOk = (FieldKind.cw.allows d && FieldKind.zero.allows s && decide (1 ≤ ops.length)) := by
  rcases ops with _ | ⟨_, rest⟩ <;> simp [decMovi, isOk_bind_bind]

@[simp] theorem isOk_decJz (d s : Nat) (ops : List Word) :
    (decJz d s ops).isOk = (FieldKind.zero.allows d && FieldKind.cw.allows s && decide (1 ≤ ops.length)) := by
  rcases ops with _ | ⟨_, rest⟩ <;> simp [decJz, isOk_bind_bind]

@[simp] theorem isOk_decJnz (d s : Nat) (ops : List Word) :
    (decJnz d s ops).isOk = (FieldKind.zero.allows d && FieldKind.cw.allows s && decide (1 ≤ ops.length)) := by
  rcases ops with _ | ⟨_, rest⟩ <;> simp [decJnz, isOk_bind_bind]

@[simp] theorem isOk_decFetchExtcsd (d s : Nat) (ops : List Word) :
    (decFetchExtcsd d s ops).isOk = (FieldKind.cw.allows d && FieldKind.zero.allows s) := by
  simp [decFetchExtcsd, isOk_bind_bind]

/-- An OPSEL outside the map of 30 R87 decodes to nothing. -/
theorem decodeOpsel_of_requestRow_none {o : Nat} (hr : requestRow o = none) (d s : Nat) (ops : List Word) :
    decodeOpsel o d s ops = .error .unknownOpsel := by
  unfold decodeOpsel
  split
  case h_19 => rfl
  all_goals cases hr

/-- The decoder of an OPSEL accepts exactly what its row of 30 R87 and the two further conditions of 30 R89 allow. -/
theorem isOk_decodeOpsel_of_requestRow {o : Nat} {row : RequestRow} (hr : requestRow o = some row) (d s : Nat)
    (ops : List Word) :
    (decodeOpsel o d s ops).isOk =
      (row.dst.allows d && row.src.allows s && decide (row.length ≤ ops.length + 1)
        && decide (o = 0x21 ∧ s = 7 → d ≤ 15)
        && decide (o = 0x24 → ∀ off ∈ ops.head?, off.toNat % 4 = 0 ∧ off.toNat ≤ 508)) := by
  unfold requestRow at hr
  split at hr
  case h_19 => cases hr
  all_goals
    cases hr
    simp [decodeOpsel]

theorem isOk_decodeFrame (ws : List Word) : (decodeFrame ws).isOk = frameLegal ws := by
  cases ws with
  | nil => rfl
  | cons h ops =>
    by_cases hh : hdrHigh h = 0
    · cases hr : requestRow (hdrOpsel h) with
      | none => simp [decodeFrame, frameLegal, hh, hr, decodeOpsel_of_requestRow_none hr]
      | some row => simp [decodeFrame, frameLegal, hh, hr, isOk_decodeOpsel_of_requestRow hr]
    · cases hr : requestRow (hdrOpsel h) <;> simp [decodeFrame, frameLegal, hh, hr]

theorem decodeFrame_ok_iff (ws : List Word) : (∃ p, decodeFrame ws = .ok p) ↔ frameLegal ws = true := by
  rw [← isOk_iff, isOk_decodeFrame]

/-- A client at a frame that is no request raises IllegalRequest, and its turn does nothing else (60 R251, R254). -/
theorem fetchRequest_of_not_frameLegal (s : State) (h : frameLegal (s.program.drop s.cpc) = false) :
    fetchRequest s = .move (raise (.illegalRequest s.cpc s.program[s.cpc]?) s) := by
  unfold fetchRequest
  split
  next i rest hd =>
    rw [(decodeFrame_ok_iff _).mp ⟨_, hd⟩] at h
    cases h
  next => rfl

/-- Settles O3: the decoder accepts exactly the frames of 30 R89, and a client at any other raises IllegalRequest. -/
theorem illegalFramesRaiseIllegalRequest : Obligations.IllegalFramesRaiseIllegalRequest := by
  unfold Obligations.IllegalFramesRaiseIllegalRequest
  refine ⟨decodeFrame_ok_iff, fun s hf he hc hl => ?_⟩
  rw [step_of_enabled_singleton .client s hf he]
  simp only [turn, hc, fetchRequest_of_not_frameLegal s hl, carryOut]

/-! ### Words written out (30 R83, R86 to R88) -/

/-- Settles O4: the model's decoder computes each of them. -/
theorem writtenWordsDecode : Obligations.WrittenWordsDecode := by
  unfold Obligations.WrittenWordsDecode
  refine ⟨?halt, ?build, ?pack, ?withData, ?isReady, ?ensureReady, ?jz, ?call⟩ <;> rfl

/-! ### The layouts (30 R71 to R73, 40 R100) -/

theorem isReservedByte_abi_iff (o : Nat) : isReservedByte .abi o = true ↔ (4 ≤ o ∧ o < 8) ∨ (60 ≤ o ∧ o < 64) := by
  simp [isReservedByte, reservedSlots]

theorem isReservedByte_literal_iff (o : Nat) : isReservedByte .literal o = true ↔ 56 ≤ o ∧ o < 64 := by
  simp [isReservedByte, reservedSlots]

/-- A field table of another size than DESC_SIZE fails. The corner case of 40 R100 is one: it ends at 68 bytes. -/
theorem layoutCheck_of_size_ne (t : List Slot) (ptr : Nat) (h : (t.map (·.width)).sum ≠ Config.descSize) :
    layoutCheck t ptr = false := by
  simp [layoutCheck, h]

/-- Settles O9: the offsets are those of the tables, UNPACK reads there, both layouts pass the check, and the corner case has
not the size of a descriptor. -/
theorem layoutCheckDecides : Obligations.LayoutCheckDecides := by
  unfold Obligations.LayoutCheckDecides
  refine ⟨?abi, ?literal, rfl, fun c img => rfl, layoutCheck_layoutTable, layoutCheck_of_size_ne _ _ (by decide)⟩
  case abi => exact ⟨rfl, rfl, rfl, rfl, rfl, rfl, rfl, rfl, rfl, rfl, rfl, rfl, rfl, rfl, isReservedByte_abi_iff⟩
  case literal => exact ⟨rfl, rfl, rfl, rfl, rfl, rfl, rfl, rfl, rfl, rfl, rfl, rfl, rfl, rfl, isReservedByte_literal_iff⟩

end Sys2Proof.Machine
end

section
/-! Proofs of the statements on the CODEC (40 R101 to R111): its images are compared field by field and at their reserved bytes,
and its requests differ only in the value they reply with and write. -/

namespace Sys2Proof.Machine

/-! ### PACK and UNPACK (40 R103) -/

theorem reservedZero_packImg (c : Params) (f : Fields) : reservedZero c.layout (packImg c f) = true :=
  (reservedZero_iff _ _).mpr (packImg_reserved c f)

theorem reservedZero_buildImg (c : Params) (op arg fl : Word) : reservedZero c.layout (buildImg c op arg fl) = true :=
  (reservedZero_iff _ _).mpr (buildImg_reserved c op arg fl)

theorem reservedZero_withTimeoutImg {c : Params} {img : Image} (h : reservedZero c.layout img = true) (cms dns : Word) :
    reservedZero c.layout (withTimeoutImg c img cms dns) = true := by
  rw [reservedZero_iff] at h ⊢
  exact fun o ho => (withTimeoutImg_reserved c img cms dns o ho).trans (h o ho)

theorem reservedZero_withDataImg {c : Params} {img : Image} (h : reservedZero c.layout img = true) (a : DWord)
    (n z : Word) : reservedZero c.layout (withDataImg c img a n z) = true := by
  rw [reservedZero_iff] at h ⊢
  exact fun o ho => (withDataImg_reserved c img a n z o ho).trans (h o ho)

theorem CodecImage.reservedZero {c : Params} {img : Image} (h : CodecImage c img) : reservedZero c.layout img = true := by
  induction h with
  | pack f => exact reservedZero_packImg c f
  | build op arg fl => exact reservedZero_buildImg c op arg fl
  | withTimeout img cms dns _ ih => exact reservedZero_withTimeoutImg ih cms dns
  | withData img a n z _ ih => exact reservedZero_withDataImg ih a n z

theorem getField_packImg_unpackImg (c : Params) (img : Image) (f : WordField) :
    getField c (packImg c (unpackImg c img)) f = getField c img f := by
  rw [getField_packImg]
  cases f <;> rfl

/-- PACK of UNPACK restores the fields and the pointer, and clears the reserved bytes (40 R103 (b)). -/
theorem packImg_unpackImg_iff (c : Params) (img : Image) :
    packImg c (unpackImg c img) = img ↔ reservedZero c.layout img = true := by
  constructor
  · intro h
    rw [← h]
    exact reservedZero_packImg c _
  · intro h
    refine image_ext_fields c _ _ (getField_packImg_unpackImg c img) (ptrOf_packImg c _) fun o ho => ?_
    rw [packImg_reserved c _ o ho, (reservedZero_iff _ _).mp h o ho]

theorem packImg_injective (c : Params) : Function.Injective (packImg c) :=
  Function.LeftInverse.injective (unpackImg_packImg c)

/-- Settles O7: UNPACK undoes PACK, PACK undoes UNPACK but for the reserved bytes, and no operation writes a reserved byte. -/
theorem packAndUnpackLaws : Obligations.PackAndUnpackLaws := by
  unfold Obligations.PackAndUnpackLaws
  exact fun c => ⟨unpackImg_packImg c, packImg_unpackImg_iff c, fun _ h => h.reservedZero,
    fun _ _ => (packImg_injective c).eq_iff.symm⟩

/-! ### Chaining (40 R107): two images are equal that have the same fields, pointer and reserved bytes -/

theorem withTimeoutImg_withDataImg (c : Params) (img : Image) (a : DWord) (n z cms dns : Word) :
    withTimeoutImg c (withDataImg c img a n z) cms dns = withDataImg c (withTimeoutImg c img cms dns) a n z := by
  refine image_ext_fields c _ _ (fun f => ?field) (by simp) fun o ho => ?reserved
  case field => cases f <;> simp [getField_withTimeoutImg, getField_withDataImg]
  case reserved => simp only [withTimeoutImg_reserved _ _ _ _ _ ho, withDataImg_reserved _ _ _ _ _ _ ho]

theorem withTimeoutImg_withTimeoutImg (c : Params) (img : Image) (cms dns cms' dns' : Word) :
    withTimeoutImg c (withTimeoutImg c img cms dns) cms' dns' = withTimeoutImg c img cms' dns' := by
  refine image_ext_fields c _ _ (fun f => ?field) (by simp) fun o ho => ?reserved
  case field => cases f <;> simp [getField_withTimeoutImg]
  case reserved => simp only [withTimeoutImg_reserved _ _ _ _ _ ho]

theorem withDataImg_withDataImg (c : Params) (img : Image) (a a' : DWord) (n z n' z' : Word) :
    withDataImg c (withDataImg c img a n z) a' n' z' = withDataImg c img a' n' z' := by
  refine image_ext_fields c _ _ (fun f => ?field) (by simp) fun o ho => ?reserved
  case field => cases f <;> simp [getField_withDataImg]
  case reserved => simp only [withDataImg_reserved _ _ _ _ _ _ ho]

theorem unpackImg_withTimeoutImg (c : Params) (img : Image) (cms dns : Word) :
    unpackImg c (withTimeoutImg c img cms dns) = { unpackImg c img with cmdTimeout := cms, dataTimeout := dns } := by
  simp [unpackImg, respOf, getField_withTimeoutImg]

theorem unpackImg_withDataImg (c : Params) (img : Image) (a : DWord) (n z : Word) :
    unpackImg c (withDataImg c img a n z) = { unpackImg c img with blockCount := n, blockSize := z, dataPointer := a } := by
  simp [unpackImg, respOf, getField_withDataImg]

/-- Settles O8: WITH_TIMEOUT and WITH_DATA each replace their own fields, which are disjoint, and nothing else. -/
theorem chainingLaws : Obligations.ChainingLaws := by
  unfold Obligations.ChainingLaws
  intro c img a a' n n' z z' cms cms' dns dns'
  refine ⟨withTimeoutImg_withDataImg .., withTimeoutImg_withTimeoutImg .., withDataImg_withDataImg .., fun f hf => ?kept,
    fun o ho => ⟨withTimeoutImg_reserved c img cms dns o ho, withDataImg_reserved c img a n z o ho⟩,
    unpackImg_withTimeoutImg .., unpackImg_withDataImg ..⟩
  case kept =>
    rw [getField_withTimeoutImg, getField_withDataImg]
    cases f with
    | cmdTimeout | dataTimeout | blockCount | blockSize => exact absurd hf (by decide)
    | _ => exact ⟨rfl, rfl⟩

/-! ### BUILD and the presets (40 R104, R110, R111) -/

theorem unpackImg_buildImg (c : Params) (op arg fl : Word) :
    unpackImg c (buildImg c op arg fl) = ⟨0, op, arg, ⟨0, 0, 0, 0⟩, fl, 0, 0, 0, 0, 0, 0, 0⟩ := by
  simp [unpackImg, respOf, getField_buildImg]

theorem sendStatusImg_eq (c : Params) (arg : Word) : sendStatusImg c arg = buildImg c 13 arg 0x15 := rfl

theorem sendExtCsdImg_eq (c : Params) (addr : DWord) :
    sendExtCsdImg c addr = withDataImg c (buildImg c 8 0 0x35) addr 1 512 := rfl

/-- Settles O10: each preset is its build, whose fields and reserved bytes are known. -/
theorem presetsHaveTheirFields : Obligations.PresetsHaveTheirFields := by
  unfold Obligations.PresetsHaveTheirFields
  intro c arg addr
  rw [sendStatusImg_eq, sendExtCsdImg_eq]
  refine ⟨rfl, unpackImg_buildImg .., reservedZero_buildImg .., rfl, ?extCsd,
    reservedZero_withDataImg (reservedZero_buildImg ..) ..⟩
  case extCsd => rw [unpackImg_withDataImg, unpackImg_buildImg]

/-! ### The requests of the CODEC (40 R101 to R106) -/

theorem withCd_of_none {i : Fin 16} {s : State} (h : s.cd[i] = none) (k : Image → State → State) :
    withCd i k s = raise (.unwrittenRead (.cd i)) s := by
  simp only [withCd, h]

theorem withCd_of_some {i : Fin 16} {s : State} {img : Image} (h : s.cd[i] = some img) (k : Image → State → State) :
    withCd i k s = k img s := by
  simp only [withCd, h]

theorem ifLegal_of_wellFormed {i : Instr} (h : i.wellFormed = true) (k : State → State) (s : State) :
    ifLegal i k s = k s := if_pos h

theorem ifLegal_of_not_wellFormed {i : Instr} (h : ¬ i.wellFormed = true) (k : State → State) (s : State) :
    ifLegal i k s = raise (.illegalRequest s.cpc (frameWords i).head?) s := if_neg h

theorem unpack_wellFormed_iff (dst : Fin 32) (src : Fin 16) : (Instr.unpack dst src).wellFormed = true ↔ dst.val ≤ 16 :=
  decide_eq_true_iff

/-- Settles O11: BUILD replies with the built image, whose fields and reserved bytes are known. -/
theorem buildCompletes : Obligations.BuildCompletes := by
  unfold Obligations.BuildCompletes
  exact fun s dst op arg fl =>
    ⟨buildImg s.cfg op arg fl, rfl, unpackImg_buildImg s.cfg op arg fl, reservedZero_buildImg s.cfg op arg fl⟩

/-- Settles O12: PACK replies with the packed image, which UNPACK reads back and whose reserved bytes are 0. -/
theorem packCompletes : Obligations.PackCompletes := by
  unfold Obligations.PackCompletes
  exact ⟨fun dst f => rfl, fun s dst f =>
    ⟨packImg s.cfg f, rfl, unpackImg_packImg s.cfg f, reservedZero_packImg s.cfg f⟩⟩

/-- Settles O13: both requests read CD[SRC] before anything else, and reply with it changed as 40 R107 says. -/
theorem withTimeoutAndWithDataComplete : Obligations.WithTimeoutAndWithDataComplete := by
  unfold Obligations.WithTimeoutAndWithDataComplete
  refine ⟨fun s dst src addr x y h => ⟨?unwrittenTimeout, ?unwrittenData⟩, fun s dst src img h =>
    ⟨fun cms dns => ⟨withTimeoutImg s.cfg img cms dns, ?timeout, unpackImg_withTimeoutImg .., withTimeoutImg_reserved _ _ _ _⟩,
      fun addr cnt sz => ⟨withDataImg s.cfg img addr cnt sz, ?data, unpackImg_withDataImg .., withDataImg_reserved _ _ _ _ _⟩⟩⟩
  case unwrittenTimeout => exact congrArg _ (withCd_of_none h _)
  case unwrittenData => exact congrArg _ (withCd_of_none h _)
  case timeout => exact congrArg _ (withCd_of_some h _)
  case data => exact congrArg _ (withCd_of_some h _)

theorem length_fieldWords (f : Fields) : (fieldWords f).length = 16 := rfl

/-- Settles O14: UNPACK reads CD[SRC], and writes the sixteen words of the record from CW[DST] on. -/
theorem unpackCompletes : Obligations.UnpackCompletes := by
  unfold Obligations.UnpackCompletes
  refine ⟨fun s dst src hd h => ?unwritten, fun f => rfl, fun s dst src img hd h =>
    ⟨setCws s.cw dst (fieldWords (unpackImg s.cfg img)), ?next, fun k hk => ?word, fun j hj => ?other⟩⟩
  case unwritten =>
    rw [exec, execUnpack, ifLegal_of_wellFormed ((unpack_wellFormed_iff dst src).mpr hd), withCd_of_none h]
  case next =>
    rw [exec, execUnpack, ifLegal_of_wellFormed ((unpack_wellFormed_iff dst src).mpr hd), withCd_of_some h, unpackInto]
    generalize fieldWords (unpackImg s.cfg img) = ws
    rfl
  all_goals have hlen := length_fieldWords (unpackImg s.cfg img)
  case word =>
    rw [getElem?_setCws _ _ _ _ (by omega), if_pos (by omega), Nat.add_sub_cancel_left]
  case other =>
    apply Option.some_injective
    have := getElem?_setCws (fieldWords (unpackImg s.cfg img)) s.cw dst j (by omega)
    rw [if_neg (by omega)] at this
    simpa using this

/-! ### The CODEC is pure (40 R108) -/

/-- What a request of the CODEC leaves in two states that agree on what it reads: a fault in both, or the same value in both. -/
inductive CodecPair (i : Instr) (s s' t t' : State) : Prop where
  | illegal : t = raise (.illegalRequest s.cpc (frameWords i).head?) s →
    t' = raise (.illegalRequest s'.cpc (frameWords i).head?) s' → CodecPair i s s' t t'
  | unwritten (src : Fin 16) : src ∈ codecSource i → t = raise (.unwrittenRead (.cd src)) s →
    t' = raise (.unwrittenRead (.cd src)) s' → CodecPair i s s' t t'
  | image (dst : Fin 16) (img : Image) : t = replyImage i dst img s → t' = replyImage i dst img s' → CodecPair i s s' t t'
  | words (dst : Fin 32) (ws : List Word) : dst.val + ws.length ≤ 32 →
    t = advance 1 (log [.req i, .reply (.words ws)] (writeCws dst ws s)) →
    t' = advance 1 (log [.req i, .reply (.words ws)] (writeCws dst ws s')) → CodecPair i s s' t t'

/-- A source read in two states that agree on it is read with the same value, or unwritten, in both. -/
theorem withCd_pair {s s' : State} {src : Fin 16} (h : s.cd[src] = s'.cd[src]) (k k' : Image → State → State) :
    (withCd src k s = raise (.unwrittenRead (.cd src)) s ∧ withCd src k' s' = raise (.unwrittenRead (.cd src)) s') ∨
      ∃ img, withCd src k s = k img s ∧ withCd src k' s' = k' img s' := by
  cases hs : s.cd[src] with
  | none => exact .inl ⟨withCd_of_none hs k, withCd_of_none (h ▸ hs) k'⟩
  | some img => exact .inr ⟨img, withCd_of_some hs k, withCd_of_some (h ▸ hs) k'⟩

theorem codecPair_of_withCd {i : Instr} {s s' : State} {src : Fin 16} (hi : src ∈ codecSource i) (h : s.cd[src] = s'.cd[src])
    (k k' : Image → State → State) (hk : ∀ img, CodecPair i s s' (k img s) (k' img s')) :
    CodecPair i s s' (withCd src k s) (withCd src k' s') := by
  rcases withCd_pair h k k' with ⟨e, e'⟩ | ⟨img, e, e'⟩ <;> rw [e, e']
  · exact .unwritten src hi rfl rfl
  · exact hk img

theorem exec_codecPair {i : Instr} {s s' t t' : State} (hi : isCodec i = true) (hcfg : s.cfg = s'.cfg)
    (hsrc : ∀ src ∈ codecSource i, s.cd[src] = s'.cd[src]) (h : exec i s = .next t) (h' : exec i s' = .next t') :
    CodecPair i s s' t t' := by
  cases i with
  | build dst op arg fl =>
    cases h; cases h'
    exact .image dst (buildImg s.cfg op arg fl) rfl (by rw [hcfg])
  | pack dst f =>
    cases h; cases h'
    exact .image dst (packImg s.cfg f) rfl (by rw [hcfg])
  | withTimeout dst src cms dns =>
    cases h; cases h'
    exact codecPair_of_withCd rfl (hsrc src rfl) _ _ fun img =>
      .image dst (withTimeoutImg s.cfg img cms dns) rfl (by rw [hcfg])
  | withData dst src addr cnt sz =>
    cases h; cases h'
    exact codecPair_of_withCd rfl (hsrc src rfl) _ _ fun img =>
      .image dst (withDataImg s.cfg img addr cnt sz) rfl (by rw [hcfg])
  | unpack dst src =>
    cases h; cases h'
    by_cases hw : (Instr.unpack dst src).wellFormed = true
    · rw [ifLegal_of_wellFormed hw, ifLegal_of_wellFormed hw]
      have hd := (unpack_wellFormed_iff dst src).mp hw
      exact codecPair_of_withCd rfl (hsrc src rfl) _ _ fun img =>
        .words dst (fieldWords (unpackImg s.cfg img)) (Nat.add_le_add_right hd 16) rfl (by rw [hcfg, unpackInto])
    · rw [ifLegal_of_not_wellFormed hw, ifLegal_of_not_wellFormed hw]
      exact .illegal rfl rfl
  | _ => cases hi

theorem CodecPair.frame {i : Instr} {s s' t t' : State} (h : CodecPair i s s' t t') :
    t.poll = s.poll ∧ t.port = s.port ∧ t.mem = s.mem ∧ t.client = s.client ∧ t.cresult = s.cresult ∧ t.cerr = s.cerr := by
  cases h <;> subst t <;> exact ⟨rfl, rfl, rfl, rfl, rfl, rfl⟩

theorem CodecPair.events {i : Instr} {s s' t t' : State} (h : CodecPair i s s' t t') :
    t = raise (.illegalRequest s.cpc (frameWords i).head?) s ∨
      (∃ src ∈ codecSource i, t = raise (.unwrittenRead (.cd src)) s) ∨
      (t.fault = s.fault ∧
        ∃ v, t.history = s.history ++ [Event.req i, Event.reply v] ∧
          t'.history = s'.history ++ [Event.req i, Event.reply v]) := by
  cases h with
  | illegal e _ => exact .inl e
  | unwritten src hi e _ => exact .inr (.inl ⟨src, hi, e⟩)
  | image dst img e e' => subst e e'; exact .inr (.inr ⟨rfl, .image img, rfl, rfl⟩)
  | words dst ws _ e e' => subst e e'; exact .inr (.inr ⟨rfl, .words ws, rfl, rfl⟩)

/-- One variable set to the same value in two states is equal there, and every other variable is as it was. -/
theorem vector_set_pair {α : Type} {n : Nat} (v v' : Vector α n) (i j : Fin n) (a : α) :
    (v.set i a)[j] = (v'.set i a)[j] ∨ (v.set i a)[j] = v[j] ∧ (v'.set i a)[j] = v'[j] := by
  simp only [Fin.getElem_fin, Vector.getElem_set]
  split
  · exact .inl rfl
  · exact .inr ⟨rfl, rfl⟩

theorem setCws_pair (v v' : Vector (Option Word) 32) (k : Nat) (ws : List Word) (hk : k + ws.length ≤ 32) (j : Fin 32) :
    (setCws v k ws)[j] = (setCws v' k ws)[j] ∨ (setCws v k ws)[j] = v[j] ∧ (setCws v' k ws)[j] = v'[j] := by
  have h := getElem?_setCws ws v k j hk
  have h' := getElem?_setCws ws v' k j hk
  by_cases hj : k ≤ j.val ∧ j.val < k + ws.length
  · rw [if_pos hj] at h h'
    exact .inl (Option.some_injective _ (by simpa using h.trans h'.symm))
  · rw [if_neg hj] at h h'
    exact .inr ⟨by simpa using h, by simpa using h'⟩

theorem CodecPair.cd {i : Instr} {s s' t t' : State} (h : CodecPair i s s' t t') (j : Fin 16) :
    t.cd[j] = t'.cd[j] ∨ (t.cd[j] = s.cd[j] ∧ t'.cd[j] = s'.cd[j]) := by
  cases h <;> subst t t'
  case image dst img => exact vector_set_pair s.cd s'.cd dst j (some img)
  all_goals exact .inr ⟨rfl, rfl⟩

theorem CodecPair.cw {i : Instr} {s s' t t' : State} (h : CodecPair i s s' t t') (j : Fin 32) :
    t.cw[j] = t'.cw[j] ∨ (t.cw[j] = s.cw[j] ∧ t'.cw[j] = s'.cw[j]) := by
  cases h <;> subst t t'
  case words dst ws hd => exact setCws_pair s.cw s'.cw dst ws hd j
  all_goals exact .inr ⟨rfl, rfl⟩

/-- Settles O15: in two states that agree on the source, a request faults in both or leaves the same value in both. -/
theorem codecRequestsArePure : Obligations.CodecRequestsArePure := by
  unfold Obligations.CodecRequestsArePure
  intro i s s' t t' hi hcfg hsrc h h'
  have hp := exec_codecPair hi hcfg hsrc h h'
  exact ⟨hp.frame, hp.events, hp.cd, hp.cw⟩

end Sys2Proof.Machine
end

section
/-! Proofs of the statements on the DECODER (41 R140 to R145): its requests differ only in the word they reply with and write,
and that word is a function of bits 12:8 of the source. -/

namespace Sys2Proof.Machine

/-! ### The requests of the DECODER (41 R140 to R142) -/

theorem withCw_of_none {i : Fin 32} {s : State} (h : s.cw[i] = none) (k : Word → State → State) :
    withCw i k s = raise (.unwrittenRead (.cw i)) s := by
  simp only [withCw, h]

theorem withCw_of_some {i : Fin 32} {s : State} {w : Word} (h : s.cw[i] = some w) (k : Word → State → State) :
    withCw i k s = k w s := by
  simp only [withCw, h]

/-- The whole effect of a request of one word that replies with a word (10 R36): CW[DST], CPC and the history. -/
theorem replyWord_of_frameLength_one {i : Instr} (hi : frameLength i = 1) (dst : Fin 32) (v : Word) (s : State) :
    replyWord i dst v s =
      { s with cw := s.cw.set dst (some v), cpc := s.cpc + 1, history := s.history ++ [.req i, .reply (.word v)] } := by
  rw [replyWord, hi, advance, log, writeCw]

theorem exec_rfd_of_some {s : State} {src : Fin 32} {w : Word} (h : s.cw[src] = some w) (dst : Fin 32) :
    exec (.rfd dst src) s = .next (replyWord (.rfd dst src) dst ((w >>> 8) &&& 1) s) := by
  rw [exec, execRfd, withCw_of_some h, boolWord_rfd]

theorem exec_cstate_of_some {s : State} {src : Fin 32} {w : Word} (h : s.cw[src] = some w) (dst : Fin 32) :
    exec (.cstate dst src) s = .next (replyWord (.cstate dst src) dst ((w >>> 9) &&& 0xF) s) := by
  rw [exec, execCstate, withCw_of_some h, setWidth_cstate]

theorem exec_isReady_of_some {s : State} {src : Fin 32} {w : Word} (h : s.cw[src] = some w) (dst : Fin 32) :
    exec (.isReady dst src) s = .next (replyWord (.isReady dst src) dst (boolWord (isReady w)) s) := by
  rw [exec, execIsReady, withCw_of_some h]

/-- Settles O16: each request reads CW[SRC] before anything else, and replies with its word by shift and mask. -/
theorem decoderRequestsComplete : Obligations.DecoderRequestsComplete := by
  unfold Obligations.DecoderRequestsComplete
  refine ⟨fun s dst src h => ?unwritten, fun s dst src w h =>
    ⟨?rfd, ?cstate, boolWord (isReady w), boolWord_isReady w, ?isReady⟩⟩
  case unwritten =>
    simp only [List.forall_mem_cons]
    exact ⟨congrArg _ (withCw_of_none h _), congrArg _ (withCw_of_none h _), congrArg _ (withCw_of_none h _),
      List.forall_mem_nil _⟩
  case rfd => rw [exec_rfd_of_some h, replyWord_of_frameLength_one rfl]
  case cstate => rw [exec_cstate_of_some h, replyWord_of_frameLength_one rfl]
  case isReady => rw [exec_isReady_of_some h, replyWord_of_frameLength_one rfl]

/-! ### The bits they depend on (41 R144) -/

/-- Bit 8 is the lowest of bits 12:8. -/
theorem rfd_eq_getLsbD_extractLsb' (w : Word) : rfd w = (w.extractLsb' 8 5).getLsbD 0 := by
  simp [rfd]

/-- Bits 12:9 are the upper four of bits 12:8. -/
theorem cstate_eq_extractLsb'_extractLsb' (w : Word) : cstate w = (w.extractLsb' 8 5).extractLsb' 1 4 := by
  refine BitVec.eq_of_getLsbD_eq fun i hi => ?_
  have hi5 : 1 + i < 5 := by omega
  simp only [cstate, BitVec.getLsbD_extractLsb', hi5, decide_true, Bool.true_and, ← Nat.add_assoc]

theorem isReady_congr {w v : Word} (hr : rfd w = rfd v) (hc : cstate w = cstate v) : isReady w = isReady v := by
  rw [isReady, isReady, hr, hc]

/-- Settles O17: bit 8 and bits 12:9 are cut from bits 12:8, and readiness is a function of the two. -/
theorem decoderIgnoresOtherBits : Obligations.DecoderIgnoresOtherBits := by
  unfold Obligations.DecoderIgnoresOtherBits
  intro w v h
  have hr : rfd w = rfd v := by simp only [rfd_eq_getLsbD_extractLsb', h]
  have hc : cstate w = cstate v := by simp only [cstate_eq_extractLsb'_extractLsb', h]
  exact ⟨hr, hc, isReady_congr hr hc⟩

/-! ### Their ranges (41 R145) -/

theorem cstate_toNat_le (w : Word) : (cstate w).toNat ≤ 15 :=
  Nat.le_of_lt_succ (cstate w).isLt

theorem isReady_iff (w : Word) : isReady w = true ↔ rfd w = true ∧ cstate w ≠ Config.stateProgramming := by
  rw [isReady, Bool.and_eq_true, decide_eq_true_iff]

/-- Settles O18: CSTATE has four bits, readiness is a conjunction with bit 8, and the 32 values of bits 12:8 are counted. -/
theorem decoderRange : Obligations.DecoderRange := by
  unfold Obligations.DecoderRange
  exact ⟨fun w => ⟨cstate_toNat_le w, fun h => ((isReady_iff w).mp h).1⟩, by decide⟩

end Sys2Proof.Machine
end

section
/-! Proof that every invocation of POLL ends (42 R178): a state in CHECKING has exactly one agent with a step, by PHASE; that
step is written out for each phase, and brings POLL nearer the end of its budget or ends the invocation. -/

namespace Sys2Proof.Machine

/-! ### Whose step it is in CHECKING (20 R65; 43 R207) -/

section
variable {s : State} (hs : Consistent s)
include hs

theorem Consistent.enabled_of_issue (hr : s.refused = none) (hphase : s.poll.phase = .issue) : enabled s = [.poll] := by
  have hp : s.poll.pstate = .checking := hs.sync.1.mpr (by simp [hphase])
  have hpoll : pollEnabled s = true := by simp [pollEnabled, isRefused, hr, hp, hphase]
  simp [enabled, hpoll, hs.sync.clientEnabled_eq_false, hs.sync.transportEnabled_eq_false, timerEnabled_eq_false, hphase]

theorem Consistent.enabled_of_waitRsp {call : Call} (hphase : s.poll.phase = .waitRsp) (hc : s.port.call = some call) :
    enabled s = [.transport] := by
  have htransport : transportEnabled s = true := by simp [transportEnabled, hc]
  simp [enabled, htransport, hs.sync.clientEnabled_eq_false, pollEnabled_eq_false, timerEnabled_eq_false, hphase]

theorem Consistent.enabled_of_delay (hphase : s.poll.phase = .delay) : enabled s = [.timer] := by
  have hp : s.poll.pstate = .checking := hs.sync.1.mpr (by simp [hphase])
  have htimer : timerEnabled s = true := by
    simp [timerEnabled, hp, hphase, pollDelayDone_isSome s.poll s.port.busyHazard hs.budget.1]
  simp [enabled, htimer, hs.sync.clientEnabled_eq_false, hs.sync.transportEnabled_eq_false, pollEnabled_eq_false, hphase]

/-- In WAIT_RSP the outstanding call is POLL's. -/
theorem Consistent.poll_call_of_waitRsp (hphase : s.poll.phase = .waitRsp) : ∃ img, s.port.call = some ⟨.poll, img⟩ := by
  obtain ⟨-, -, howner, -, -⟩ := hs.sync
  obtain ⟨⟨o, img⟩, hc, ho⟩ := Option.map_eq_some_iff.mp (howner.mpr hphase)
  exact ⟨img, by rw [hc, ← ho]⟩

end

/-! ### The answer to POLL's call (43 R205, R206) -/

/-- Without a data phase the transfer is within the address space. -/
theorem addrOk_of_blocksOf_zero {c : Params} {img : Image} (h : blocksOf c img = 0) (a : Answer) :
    addrOk (ptrOf c img).toNat (transferBytes c img a).length = true := by
  rw [transferBytes_nil c img a h]
  exact decide_eq_true (ptrOf c img).isLt.le

theorem answerCall_poll {s : State} {img : Image} (h : blocksOf s.cfg img = 0) (a : Answer) :
    answerCall .poll img a s = pollTakes (setResp s.cfg img a.resp) a.err (answerPort img a s) :=
  if_pos (addrOk_of_blocksOf_zero h a)

/-- The call is performed for its owner, with the answer drawn (43 R204). -/
theorem performCall_of_call {s : State} {call : Call} (hc : s.port.call = some call) (img : Image) :
    performCall img s = .next (answerCall call.owner img (drawAnswer s.cfg s.draws) { s with draws := s.draws + 1 }) := by
  simp only [performCall, hc]

/-! ### The one step of a state in CHECKING (42 R166 to R172) -/

section
variable {s : State} (hs : Consistent s) (hf : s.fault = none)
include hs hf

theorem Consistent.step_of_issue (hr : s.refused = none) (hphase : s.poll.phase = .issue) :
    ∃ arg, step s =
      .next { admittedState .poll (sendStatusImg s.cfg arg) s with poll := pollIssued s.cfg s.poll arg } := by
  have hp : s.poll.pstate = .checking := hs.sync.1.mpr (by simp [hphase])
  obtain ⟨-, -, -, -, harg⟩ := hs.budget
  obtain ⟨arg, ha⟩ := Option.isSome_iff_exists.mp (harg hp)
  have hcall : s.port.call = none :=
    hs.sync.call_none (by simp [hphase]) (awaitsDone_place s.client (hs.checking hp).client).1
  refine ⟨arg, ?_⟩
  rw [step_of_enabled_singleton .poll s hf (hs.enabled_of_issue hr hphase)]
  show Host.Outcome.next (issueStep s) = _
  rw [issueStep_some s arg ⟨hp, hphase⟩ ha, submit_admitted _ _ _ _ (admissible_sendStatus s.cfg s.port arg hcall)]

theorem Consistent.step_of_waitRsp (hphase : s.poll.phase = .waitRsp) :
    ∃ img a, s.port.call = some ⟨.poll, img⟩ ∧ step s =
      .next (pollTakes (setResp s.cfg img a.resp) a.err (answerPort img a { s with draws := s.draws + 1 })) := by
  obtain ⟨img, hc⟩ := hs.poll_call_of_waitRsp hphase
  refine ⟨img, drawAnswer s.cfg s.draws, hc, ?_⟩
  have hturn : carryOut (turn .transport s) = performCall img s := by
    simp only [turn, hc, carryOut, exec_decodeImage s _ hc]
  rw [step_of_enabled_singleton .transport s hf (hs.enabled_of_waitRsp hphase hc), hturn, performCall_of_call hc]
  have hblocks : blocksOf s.cfg img = 0 := blocksOf_of_callLegal_poll (hs.callLegal_of_call hc)
  exact congrArg _ (answerCall_poll (s := { s with draws := s.draws + 1 }) hblocks (drawAnswer s.cfg s.draws))

theorem Consistent.step_of_delay (hphase : s.poll.phase = .delay) :
    ∃ out, pollDelayDone s.poll s.port.busyHazard = some out ∧ step s = .next (applyPoll out (log [.delayDone] s)) := by
  have hp : s.poll.pstate = .checking := hs.sync.1.mpr (by simp [hphase])
  obtain ⟨out, ho⟩ := Option.isSome_iff_exists.mp (pollDelayDone_isSome s.poll s.port.busyHazard hs.budget.1)
  refine ⟨out, ho, ?_⟩
  rw [step_of_enabled_singleton .timer s hf (hs.enabled_of_delay hphase)]
  exact congrArg _ (timerStep_some s out ⟨hp, hphase⟩ ho)

end

/-! ### How far the end is (42 R178) -/

/-- The most steps POLL's invocation still takes: three for each attempt left, and in WAIT_RSP and DELAY those that end the
attempt under way. -/
def stepsLeft (r : PollRegs) : Nat :=
  match r.phase with
  | .idle => 0
  | .issue => 3 * (Config.maxAttempts - r.attempts.toNat)
  | .waitRsp => 3 * (Config.maxAttempts - r.attempts.toNat) + 2
  | .delay => 3 * (Config.maxAttempts - r.attempts.toNat) + 1

/-- POLL has ended its invocation. -/
def PollEnded (r : PollRegs) : Prop := r.pstate = .ready ∨ r.pstate = .exhausted ∨ r.pstate = .failed

/-- The registers `r'` are nearer the end than `r`. -/
def PollAdvances (r r' : PollRegs) : Prop :=
  stepsLeft r' < stepsLeft r ∧ (PollEnded r' ∨ r'.pstate = .checking)

theorem stepsLeft_le {c : Params} {r : PollRegs} (h : PollBudget c r) : stepsLeft r ≤ 3 * Config.maxAttempts := by
  obtain ⟨hle, -, hone, -, -⟩ := h
  unfold stepsLeft
  cases hphase : r.phase with
  | idle => exact Nat.zero_le _
  | issue => exact Nat.mul_le_mul_left 3 (Nat.sub_le _ _)
  | waitRsp => have := hone (.inl hphase); dsimp only; omega
  | delay => have := hone (.inr hphase); dsimp only; omega

/-- ISSUE uses an attempt. -/
theorem pollAdvances_pollIssued (c : Params) {r : PollRegs} (arg : Word) (hp : r.pstate = .checking) (hphase : r.phase = .issue)
    (hlt : r.attempts.toNat < Config.maxAttempts) : PollAdvances r (pollIssued c r arg) := by
  refine ⟨?_, .inr hp⟩
  simp only [stepsLeft, hphase, pollIssued_phase, pollIssued_attempts, attempts_succ r.attempts hlt]
  omega

/-- A transition that ends the invocation from WAIT_RSP or DELAY. -/
theorem pollAdvances_ended {r r' : PollRegs} (hphase : r.phase = .waitRsp ∨ r.phase = .delay) (hidle : r'.phase = .idle)
    (hend : PollEnded r') : PollAdvances r r' := by
  refine ⟨?_, .inl hend⟩
  rcases hphase with hphase | hphase <;> simp [stepsLeft, hphase, hidle]

theorem pollAdvances_pollRspOk {c : Params} {r : PollRegs} {busy : Bool} {img : Image} {out : PollOut}
    (hp : r.pstate = .checking) (hphase : r.phase = .waitRsp) (ho : pollRspOk c r busy img = some out) :
    PollAdvances r out.regs := by
  rcases pollRspOk_cases _ _ _ _ _ ho with ⟨-, e⟩ | ⟨-, -, e⟩ | ⟨-, -, -, e⟩ <;> subst e
  · exact pollAdvances_ended (.inl hphase) rfl (.inl rfl)
  · exact ⟨by simp [stepsLeft, hphase], .inr hp⟩
  · exact pollAdvances_ended (.inl hphase) rfl (.inr (.inl rfl))

theorem pollAdvances_pollDelayDone {r : PollRegs} {busy : Bool} {out : PollOut} (hp : r.pstate = .checking)
    (hphase : r.phase = .delay) (ho : pollDelayDone r busy = some out) : PollAdvances r out.regs := by
  rcases pollDelayDone_cases _ _ _ ho with ⟨-, e⟩ | ⟨-, e⟩ <;> subst e
  · exact ⟨by simp [stepsLeft, hphase], .inr hp⟩
  · exact pollAdvances_ended (.inr hphase) rfl (.inr (.inl rfl))

theorem pollAdvances_pollTakes {s : State} (hp : s.poll.pstate = .checking) (hphase : s.poll.phase = .waitRsp)
    (hle : s.poll.attempts.toNat ≤ Config.maxAttempts) (img : Image) (err : Option Word) :
    PollAdvances s.poll (pollTakes img err s).poll := by
  cases err with
  | some code =>
    rw [pollTakes_err img code s hp hphase, applyPoll_poll]
    exact pollAdvances_ended (.inl hphase) rfl (.inr (.inr rfl))
  | none =>
    obtain ⟨out, ho⟩ := pollRspOk_some s.cfg s.poll s.port.busyHazard img hle
    rw [pollTakes_ok img s out hp hphase ho, applyPoll_poll]
    exact pollAdvances_pollRspOk hp hphase ho

/-- In CHECKING there is a step; it raises no fault, is refused nothing, and brings POLL nearer the end. -/
theorem Consistent.step_advances {s : State} (hs : Consistent s) (hp : s.poll.pstate = .checking) (hf : s.fault = none)
    (hr : s.refused = none) :
    ∃ t, step s = .next t ∧ t.fault = none ∧ t.refused = none ∧ PollAdvances s.poll t.poll := by
  obtain ⟨hle, hissue, -, -, -⟩ := hs.budget
  cases hphase : s.poll.phase with
  | idle => exact absurd hphase (hs.checking hp).phase
  | issue =>
    obtain ⟨arg, h⟩ := hs.step_of_issue hf hr hphase
    exact ⟨_, h, hf, hr, pollAdvances_pollIssued s.cfg arg hp hphase (hissue hphase)⟩
  | waitRsp =>
    obtain ⟨img, a, -, h⟩ := hs.step_of_waitRsp hf hphase
    exact ⟨_, h, by simpa using hf, by simpa using hr,
      pollAdvances_pollTakes (s := answerPort img a { s with draws := s.draws + 1 }) hp hphase hle _ _⟩
  | delay =>
    obtain ⟨out, ho, h⟩ := hs.step_of_delay hf hphase
    exact ⟨_, h, by simpa using hf, by simpa using hr, by rw [applyPoll_poll]; exact pollAdvances_pollDelayDone hp hphase ho⟩

/-- From CHECKING, POLL ends its invocation within the steps that are left, by induction on them. -/
theorem Consistent.invocation_ends {s : State} (hs : Consistent s) (hp : s.poll.pstate = .checking) (hf : s.fault = none)
    (hr : s.refused = none) :
    ∃ n t, n ≤ stepsLeft s.poll ∧ core.run n s = .next t ∧ PollEnded t.poll ∧ t.fault = none := by
  induction h : stepsLeft s.poll using Nat.strong_induction_on generalizing s with
  | _ k ih =>
    obtain ⟨t, hstep, hf', hr', hlt, hend | hp'⟩ := hs.step_advances hp hf hr
    · exact ⟨1, t, by omega, run_succ 0 s t hstep, hend, hf'⟩
    · have hs' : Consistent t := everyStepKeepsConsistent s t hs hstep
      obtain ⟨n, u, hn, hrun, hu⟩ := ih (stepsLeft t.poll) (h ▸ hlt) hs' hp' hf' hr' rfl
      exact ⟨n + 1, u, by omega, (run_succ n s t hstep).trans hrun, hu⟩

/-- Settles O27: the steps left are at most three for each attempt. -/
theorem ensureReadyTerminates : Obligations.EnsureReadyTerminates := by
  unfold Obligations.EnsureReadyTerminates
  intro s hs hp hf hr
  obtain ⟨n, t, hn, h⟩ := hs.invocation_ends hp hf hr
  exact ⟨n, t, hn.trans (stepsLeft_le hs.budget), h⟩

end Sys2Proof.Machine
end

section
/-! Proofs of the statements on the history of an invocation (42 R173, R175 to R177): the counts of its issues, delays and Dones,
and the order of its events. Each transaction of a step appends events of known counts, and moves the stage of the history as it
moves POLL's registers. -/

namespace Sys2Proof.Machine

/-! ### What a list of events adds to the counts (42 R175, R176) -/

/-- The events start no invocation, and are `i` issues, `d` delays and `n` Dones among others. -/
structure Adds (i d n : Nat) (es : List Event) : Prop where
  noStart : ∀ e ∈ es, isStart e = false
  countIssue : es.countP isPollIssue = i
  countDelay : es.countP isDelayReq = d
  countDone : es.countP isDone = n

theorem Adds.append {i d n i' d' n' : Nat} {es es' : List Event} (h : Adds i d n es) (h' : Adds i' d' n' es') :
    Adds (i + i') (d + d') (n + n') (es ++ es') := by
  obtain ⟨h0, hi, hd, hn⟩ := h
  obtain ⟨h0', hi', hd', hn'⟩ := h'
  refine ⟨fun e he => (List.mem_append.mp he).elim (h0 e) (h0' e), ?_, ?_, ?_⟩ <;> simp only [List.countP_append, *]

theorem Adds.history {i d n : Nat} {es : List Event} (h : Adds i d n es) {s t : State} (ht : t.history = s.history ++ es) :
    issues t = issues s + i ∧ delays t = delays s + d ∧ dones t = dones s + n := by
  obtain ⟨h0, hi, hd, hn⟩ := h
  simp only [issues, delays, dones, ht, sinceStart_append _ _ h0, List.countP_append, hi, hd, hn, and_self]

theorem adds_singleton (e : Event) (h : isStart e = false) :
    Adds (isPollIssue e).toNat (isDelayReq e).toNat (isDone e).toNat [e] := by
  have count : ∀ p : Event → Bool, [e].countP p = (p e).toNat := fun p => by
    rw [List.countP_singleton]; cases p e <;> rfl
  exact ⟨List.forall_mem_singleton.mpr h, count _, count _, count _⟩

theorem adds_nil : Adds 0 0 0 [] := ⟨List.forall_mem_nil _, rfl, rfl, rfl⟩

theorem adds_traceIssue (c : Params) (img : Image) : Adds 0 0 0 (traceIssue c img) := by
  obtain ⟨hi, hd, hn, -, -⟩ := traceIssue_counts c img
  exact ⟨traceIssue_isStart c img, hi, hd, hn⟩

theorem adds_traceResult (c : Params) (a : Answer) : Adds 0 0 0 (traceResult c a) := by
  obtain ⟨hi, hd, hn, -, -⟩ := traceResult_counts c a
  exact ⟨traceResult_isStart c a, hi, hd, hn⟩

theorem adds_local {es : List Event} (c : Params) (h : es.all isLocalEvent = true) : Adds 0 0 0 es := by
  obtain ⟨hi, hd, hn, -, -, h0⟩ := localEvents_counts c es h
  exact ⟨h0, hi, hd, hn⟩

theorem adds_fault (f : Fault) : Adds 0 0 0 [.fault f] := adds_singleton (.fault f) rfl
theorem adds_xferReq_client (img : Image) : Adds 0 0 0 [.xferReq .client img] := adds_singleton (.xferReq .client img) rfl
theorem adds_xferReq_poll (img : Image) : Adds 1 0 0 [.xferReq .poll img] := adds_singleton (.xferReq .poll img) rfl
theorem adds_xferOk (img : Image) : Adds 0 0 0 [.xferOk img] := adds_singleton (.xferOk img) rfl
theorem adds_xferErr (code : Word) : Adds 0 0 0 [.xferErr code] := adds_singleton (.xferErr code) rfl
theorem adds_delayReq (ms : Nat) : Adds 0 1 0 [.delayReq ms] := adds_singleton (.delayReq ms) rfl
theorem adds_delayDone : Adds 0 0 0 [.delayDone] := adds_singleton .delayDone rfl
theorem adds_done (r : OpResult) (code : Option Word) : Adds 0 0 1 [.done r code] := adds_singleton (.done r code) rfl

theorem adds_answerEvents (c : Params) (img : Image) (a : Answer) : Adds 0 0 0 (answerEvents c img a) := by
  obtain ⟨hi, hd, hn, -, -⟩ := answerEvents_counts c img a
  refine ⟨?_, hi, hd, hn⟩
  rw [answerEvents, List.forall_mem_cons]
  exact ⟨by unfold answerEvent; cases a.err <;> rfl, traceResult_isStart c a⟩

/-- The events of an answer that moves POLL: the answer, the trace and POLL's own event (42 R167 to R170). -/
theorem adds_response {e e' : Event} {d n : Nat} (c : Params) (a : Answer) (he : Adds 0 0 0 [e]) (he' : Adds 0 d n [e']) :
    Adds 0 d n (e :: traceResult c a ++ [e']) := by
  simpa using (he.append (adds_traceResult c a)).append he'

/-! ### The counts of an invocation (42 R175, R176) -/

/-- A step that moves no POLL and adds no event of an invocation keeps the counts. -/
theorem InvocationCounts.frame {s t : State} (h : InvocationCounts s) (hcfg : t.cfg = s.cfg) (hpoll : t.poll = s.poll)
    {es : List Event} (hes : Adds 0 0 0 es) (ht : t.history = s.history ++ es) : InvocationCounts t := by
  obtain ⟨hi, hd, hn⟩ := hes.history ht
  simpa only [InvocationCounts, hcfg, hpoll, hi, hd, hn, Nat.add_zero] using h

/-- What the counts say in CHECKING: an attempt that waits for its answer has no delay yet. -/
theorem invocationCounts_checking_iff {s : State} (hp : s.poll.pstate = .checking) :
    InvocationCounts s ↔ issues s = s.poll.attempts.toNat ∧ dones s = 0 ∧
      delays s + (if s.poll.phase = .waitRsp then 1 else 0) = s.poll.attempts.toNat := by
  simp only [InvocationCounts, hp]
  split <;> rfl

/-- A step inside CHECKING: the attempts grow with the issues, and a delay is added where an attempt stops to wait. -/
theorem InvocationCounts.stay {s t : State} (h : InvocationCounts s) (hp : s.poll.pstate = .checking)
    (hp' : t.poll.pstate = .checking) {i d : Nat} {es : List Event} (hes : Adds i d 0 es) (ht : t.history = s.history ++ es)
    (hattempts : t.poll.attempts.toNat = s.poll.attempts.toNat + i)
    (hwaits : d + (if t.poll.phase = .waitRsp then 1 else 0) = i + (if s.poll.phase = .waitRsp then 1 else 0)) :
    InvocationCounts t := by
  obtain ⟨hi, hd, hn⟩ := hes.history ht
  obtain ⟨hissues, hdones, hdelays⟩ := (invocationCounts_checking_iff hp).mp h
  rw [invocationCounts_checking_iff hp', hi, hd, hn, hattempts]
  omega

/-- START: the history since the request is empty. -/
theorem invocationCounts_start {s t : State} {dst : Fin 32} {arg : Word} (hpoll : t.poll = pollStart s.poll arg)
    (ht : t.history = s.history ++ [.req (.ensureReady dst arg)]) : InvocationCounts t := by
  rw [invocationCounts_checking_iff (by rw [hpoll]; rfl)]
  simp [issues, dones, delays, ht, sinceStart_start, hpoll]

/-- READY and FAILED end an invocation in WAIT_RSP, whose last attempt no delay follows. -/
theorem invocationCounts_ready_or_failed {s t : State} (hs : Consistent s) (h : InvocationCounts s)
    (hp : s.poll.pstate = .checking) (hphase : s.poll.phase = .waitRsp) {es : List Event} (hes : Adds 0 0 1 es)
    (ht : t.history = s.history ++ es) (hattempts : t.poll.attempts = s.poll.attempts)
    (hend : t.poll.pstate = .ready ∨ t.poll.pstate = .failed) : InvocationCounts t := by
  obtain ⟨hi, hd, hn⟩ := hes.history ht
  obtain ⟨hissues, hdones, hdelays⟩ := (invocationCounts_checking_iff hp).mp h
  rw [if_pos hphase] at hdelays
  obtain ⟨hle, -, -, -, -⟩ := hs.budget
  have counts : issues t = t.poll.attempts.toNat ∧ dones t = 1 ∧ 1 ≤ issues t ∧ issues t ≤ Config.maxAttempts ∧
      delays t + 1 = t.poll.attempts.toNat := by
    rw [hi, hd, hn, hattempts]; omega
  rcases hend with hend | hend <;> simpa only [InvocationCounts, hend] using counts

/-- EXHAUSTED ends an invocation whose attempts are all made: in WAIT_RSP without a last delay, and in DELAY after it. -/
theorem invocationCounts_exhausted {s t : State} (h : InvocationCounts s) (hp : s.poll.pstate = .checking)
    (hlast : if s.poll.phase = .waitRsp then s.cfg.delayAfterLast = false else s.cfg.delayAfterLast = true)
    (hmax : s.poll.attempts.toNat = Config.maxAttempts) {es : List Event} (hes : Adds 0 0 1 es)
    (ht : t.history = s.history ++ es) (hcfg : t.cfg = s.cfg) (hend : t.poll.pstate = .exhausted) : InvocationCounts t := by
  obtain ⟨hi, hd, hn⟩ := hes.history ht
  obtain ⟨hissues, hdones, hdelays⟩ := (invocationCounts_checking_iff hp).mp h
  simp only [InvocationCounts, hend, hi, hd, hn, hcfg]
  split at hdelays <;> rename_i hphase
  · rw [if_pos hphase] at hlast
    simp only [hlast, Bool.false_eq_true, if_false]; omega
  · rw [if_neg hphase] at hlast
    simp only [hlast, if_true]; omega

theorem Transaction.invocationCounts {s t : State} (htr : Transaction s t) (hs : Consistent s) (h : InvocationCounts s)
    (hcfg : t.cfg = s.cfg) : InvocationCounts t := by
  cases htr with
  | quiet es hpoll _ ht hes =>
    refine h.frame hcfg hpoll ?_ ht
    rcases hes with rfl | ⟨-, hes⟩ | ⟨f, rfl⟩
    · exact adds_nil
    · exact adds_local s.cfg hes
    · exact adds_fault f
  | start dst arg _ hpoll _ ht => exact invocationCounts_start hpoll ht
  | submit img _ _ hpoll _ ht => exact h.frame hcfg hpoll ((adds_xferReq_client img).append (adds_traceIssue s.cfg img)) ht
  | refused img _ _ _ hpoll _ ht => exact h.frame hcfg hpoll (adds_xferReq_client img) ht
  | answered call a _ _ hpoll _ ht => exact h.frame hcfg hpoll (adds_answerEvents s.cfg call.image a) ht
  | issue arg hp hphase _ _ hpoll _ ht =>
    obtain ⟨-, hlt, -, -, -⟩ := hs.budget
    exact h.stay hp (by rw [hpoll]; exact hp) ((adds_xferReq_poll _).append (adds_traceIssue _ _)) ht
      (by rw [hpoll, pollIssued_attempts, attempts_succ _ (hlt hphase)]) (by simp [hpoll, hphase])
  | rspErr img a code _ hp hphase _ hpoll _ ht =>
    exact invocationCounts_ready_or_failed hs h hp hphase (adds_response s.cfg a (adds_xferErr _) (adds_done ..)) ht
      (by rw [hpoll]; rfl) (.inr (by rw [hpoll]; rfl))
  | rspReady img a _ hp hphase _ _ hpoll _ ht =>
    exact invocationCounts_ready_or_failed hs h hp hphase (adds_response s.cfg a (adds_xferOk _) (adds_done ..)) ht
      (by rw [hpoll]; rfl) (.inl (by rw [hpoll]; rfl))
  | rspBusy img a _ hp hphase _ _ _ hpoll _ ht =>
    exact h.stay hp (by rw [hpoll]; exact hp) (adds_response s.cfg a (adds_xferOk _) (adds_delayReq _)) ht
      (by rw [hpoll]; rfl) (by simp [hpoll, hphase])
  | rspLast img a _ hp hphase _ _ hmax hlast hpoll _ ht =>
    exact invocationCounts_exhausted h hp (by rwa [if_pos hphase]) hmax
      (adds_response s.cfg a (adds_xferOk _) (adds_done ..)) ht hcfg (by rw [hpoll]; rfl)
  | dlyNext hp hphase _ hpoll _ ht =>
    exact h.stay hp (by rw [hpoll]; exact hp) adds_delayDone ht (by rw [hpoll]; rfl) (by simp [hpoll, hphase])
  | dlyLast hp hphase hmax hpoll _ ht =>
    obtain ⟨-, -, -, hdelay, -⟩ := hs.budget
    have hlast : s.cfg.delayAfterLast = true := (hdelay hphase).resolve_left (by omega)
    exact invocationCounts_exhausted h hp (by rwa [if_neg (by simp [hphase])]) hmax
      (adds_delayDone.append (adds_done ..)) ht hcfg (by rw [hpoll]; rfl)

/-- Settles O28: after reset no invocation has begun, and each transaction adds to the counts what it moves in the registers. -/
theorem invocationCountsKept : Obligations.InvocationCountsKept := by
  unfold Obligations.InvocationCountsKept
  refine ⟨fun c => trivial, fun s t hs h hstep => ?_⟩
  obtain ⟨hcfg, -⟩ := configurationProgramAndPastAreKept s t hstep
  exact (step_transaction s t hstep).invocationCounts hs h hcfg

/-! ### The order of events (42 R177) -/

/-- The events of a step lead the stage of the history where the step leads POLL. -/
theorem EventsInOrder.append {s t : State} (h : EventsInOrder s) (hcfg : t.cfg = s.cfg) {es : List Event}
    (ht : t.history = s.history ++ es)
    (hes : es.foldlM (stageAfter s.cfg) (pollStage s.poll) = some (pollStage t.poll)) : EventsInOrder t := by
  rw [EventsInOrder, hcfg, ht, stageOf_append _ _ _ _ h, hes]

theorem pollStage_idle {r : PollRegs} (h : r.phase = .idle) : pollStage r = .idle := by simp only [pollStage, h]
theorem pollStage_issue {r : PollRegs} (h : r.phase = .issue) : pollStage r = .issue r.attempts.toNat := by
  simp only [pollStage, h]
theorem pollStage_waitRsp {r : PollRegs} (h : r.phase = .waitRsp) : pollStage r = .waiting r.attempts.toNat := by
  simp only [pollStage, h]
theorem pollStage_delay {r : PollRegs} (h : r.phase = .delay) : pollStage r = .delay r.attempts.toNat := by
  simp only [pollStage, h]

/-- While no invocation is in progress, the client's commands and their answers leave the stage idle. -/
theorem stage_xferReq_client (c : Params) (img : Image) (es : List Event) :
    (Event.xferReq .client img :: es).foldlM (stageAfter c) .idle = es.foldlM (stageAfter c) .idle :=
  stage_cons _ _ _ _ _ rfl

theorem stage_answerEvents (c : Params) (img : Image) (a : Answer) :
    (answerEvents c img a).foldlM (stageAfter c) .idle = some .idle := by
  have hans : stageAfter c .idle (answerEvent (setResp c img a.resp) a) = some .idle := by
    unfold answerEvent; cases a.err <;> rfl
  rw [answerEvents, stage_cons _ _ _ _ _ hans]
  simpa using stage_traceResult c a .idle []

/-- The events of an answer that moves POLL lead from the answer's stage to that of POLL's own event. -/
theorem stage_response {c : Params} {a : Answer} {st st' st'' : Stage} {e e' : Event} (he : stageAfter c st e = some st')
    (he' : stageAfter c st' e' = some st'') : (e :: traceResult c a ++ [e']).foldlM (stageAfter c) st = some st'' := by
  rw [List.cons_append, stage_cons _ _ _ _ _ he, stage_traceResult, stage_cons _ _ _ _ _ he']; rfl

theorem stage_fault (c : Params) (st : Stage) (f : Fault) : [Event.fault f].foldlM (stageAfter c) st = some st := by
  cases st <;> rfl

theorem Transaction.eventsInOrder {s t : State} (htr : Transaction s t) (hs : Consistent s) (h : EventsInOrder s)
    (hcfg : t.cfg = s.cfg) : EventsInOrder t := by
  have idle : clientEnabled s = true → pollStage s.poll = .idle := fun hen => pollStage_idle (hs.sync.client_turn hen).1
  obtain ⟨hle, hissue, -, -, -⟩ := hs.budget
  cases htr with
  | quiet es hpoll _ ht hes =>
    refine h.append hcfg ht ?_
    rw [hpoll]
    rcases hes with rfl | ⟨hen, hes⟩ | ⟨f, rfl⟩
    · rfl
    · rw [idle hen]; exact stage_local s.cfg es hes
    · exact stage_fault s.cfg _ f
  | start dst arg hp hpoll _ ht =>
    have hphase : s.poll.phase = .idle := by_contra fun hne => hp (hs.sync.1.mpr hne)
    exact h.append hcfg ht (by rw [pollStage_idle hphase, hpoll]; rfl)
  | submit img hen _ hpoll _ ht =>
    exact h.append hcfg ht (by rw [hpoll, idle hen, stage_xferReq_client, stage_traceIssue])
  | refused img hen _ _ hpoll _ ht => exact h.append hcfg ht (by rw [hpoll, idle hen, stage_xferReq_client]; rfl)
  | answered call a hc howner hpoll _ ht =>
    obtain ⟨o, img⟩ := call
    have hphase : s.poll.phase = .idle := by
      cases o with
      | client =>
        obtain ⟨-, hphase, -⟩ := hs.sync.client_call hc
        exact hphase
      | poll =>
        obtain ⟨hp, hwait, -, -⟩ := hs.sync.poll_call hc
        rcases howner with e | hno | hgt
        · cases e
        · exact absurd ⟨hp, hwait⟩ hno
        · omega
    exact h.append hcfg ht (by rw [hpoll, pollStage_idle hphase, stage_answerEvents])
  | issue arg _ hphase _ _ hpoll _ ht =>
    have hlt := hissue hphase
    refine h.append hcfg ht ?_
    rw [pollStage_issue hphase, stage_cons _ _ _ _ _ (stageAfter_issue _ _ _ hlt), stage_traceIssue, hpoll,
      pollStage_waitRsp rfl, pollIssued_attempts, attempts_succ _ hlt]
  | rspErr img a code _ _ hphase _ hpoll _ ht =>
    refine h.append hcfg ht ?_
    rw [pollStage_waitRsp hphase, hpoll, pollStage_idle rfl]
    exact stage_response (stageAfter_err ..) (stageAfter_done ..)
  | rspReady img a _ _ hphase _ hready hpoll _ ht =>
    refine h.append hcfg ht ?_
    rw [pollStage_waitRsp hphase, hpoll, pollStage_idle rfl]
    exact stage_response (stageAfter_ready _ _ _ (by rwa [respOf_setResp])) (stageAfter_done ..)
  | rspBusy img a _ _ hphase _ hready _ hpoll _ ht =>
    refine h.append hcfg ht ?_
    rw [pollStage_waitRsp hphase, hpoll, pollStage_delay rfl]
    exact stage_response (stageAfter_notReady _ _ _ (by rwa [respOf_setResp])) (stageAfter_delayReq ..)
  | rspLast img a _ _ hphase _ hready hmax hlast hpoll _ ht =>
    refine h.append hcfg ht ?_
    rw [pollStage_waitRsp hphase, hpoll, pollStage_idle rfl]
    exact stage_response (stageAfter_notReady _ _ _ (by rwa [respOf_setResp])) (stageAfter_last _ _ hmax hlast)
  | dlyNext _ hphase hlt hpoll _ ht =>
    refine h.append hcfg ht ?_
    rw [pollStage_delay hphase, stage_cons _ _ _ _ _ (stageAfter_delayNext _ _ hlt), hpoll, pollStage_issue rfl]
    rfl
  | dlyLast _ hphase hmax hpoll _ ht =>
    refine h.append hcfg ht ?_
    rw [pollStage_delay hphase, stage_cons _ _ _ _ _ (stageAfter_delayLast _ _ hmax.not_lt),
      stage_cons _ _ _ _ _ (stageAfter_done ..), hpoll, pollStage_idle rfl]
    rfl

/-- Settles O29: each transaction's events are allowed where POLL stands, and lead to where it stands after. -/
theorem eventOrderKept : Obligations.EventOrderKept := by
  unfold Obligations.EventOrderKept
  refine ⟨fun c => rfl, fun s t hs h hstep => ?_⟩
  obtain ⟨hcfg, -⟩ := configurationProgramAndPastAreKept s t hstep
  exact (step_transaction s t hstep).eventsInOrder hs h hcfg

end Sys2Proof.Machine
end

section
/-! Proofs of the statements on POLL's transitions (42 R160 to R174, R180, R181): the table, what each row leaves of the state, and
the step that ends an invocation. -/

namespace Sys2Proof.Machine

/-! ### The table and its function form (42 R160, R180) -/

/-- RSP_READY (42 R168). -/
theorem pollRspOk_of_ready {c : Params} {img : Image} (h : isReady (respOf c img).r0 = true) (r : PollRegs) (busy : Bool) :
    pollRspOk c r busy img = some (pollFinish (pollEnd (pollAnswered c r img) .ready .ok) false .ok none) := if_pos h

/-- RSP_BUSY (42 R169). -/
theorem pollRspOk_of_busy {c : Params} {r : PollRegs} {img : Image} (h : isReady (respOf c img).r0 = false)
    (hlt : r.attempts.toNat < Config.maxAttempts ∨ c.delayAfterLast = true) (busy : Bool) :
    pollRspOk c r busy img =
      some ⟨{ pollAnswered c r img with phase := .delay }, busy, [.delayReq Config.pollDelayMs], none⟩ := by
  rw [pollRspOk, if_neg (by simp [h]), if_pos hlt]

/-- RSP_LAST (42 R170). -/
theorem pollRspOk_of_last {c : Params} {r : PollRegs} {img : Image} (h : isReady (respOf c img).r0 = false)
    (hmax : r.attempts.toNat = Config.maxAttempts) (hlast : c.delayAfterLast = false) (busy : Bool) :
    pollRspOk c r busy img =
      some (pollFinish (pollEnd (pollAnswered c r img) .exhausted .timeout) busy .timeout none) := by
  rw [pollRspOk, if_neg (by simp [h]), if_neg (by simp [hmax, hlast]), if_pos hmax]

/-- DLY_NEXT (42 R171). -/
theorem pollDelayDone_of_lt {r : PollRegs} (h : r.attempts.toNat < Config.maxAttempts) (busy : Bool) :
    pollDelayDone r busy = some ⟨{ r with phase := .issue }, busy, [], none⟩ := if_pos h

/-- DLY_LAST (42 R172). -/
theorem pollDelayDone_of_eq {r : PollRegs} (h : r.attempts.toNat = Config.maxAttempts) (busy : Bool) :
    pollDelayDone r busy = some (pollFinish (pollEnd r .exhausted .timeout) busy .timeout none) := by
  rw [pollDelayDone, if_neg h.not_lt, if_pos h]

theorem PollRow.pollStep_eq {c : Params} {r : PollRegs} {busy : Bool} {i : PollInput} {out : PollOut} (cpc : Nat)
    (h : PollRow c r busy i out) : pollStep c cpc r busy i = .ok (some out) := by
  cases h with
  | start arg hp _ => exact if_neg hp
  | issue arg hp hphase ha => simp only [pollStep, hp, hphase, ha, and_self, if_true, pollIssued]
  | rspErr code hp hphase => exact congrArg Except.ok (if_pos ⟨hp, hphase⟩)
  | rspReady img hp hphase h =>
    exact congrArg Except.ok ((if_pos ⟨hp, hphase⟩).trans (pollRspOk_of_ready h r busy))
  | rspBusy img hp hphase h hlt =>
    rw [pollStep, if_pos ⟨hp, hphase⟩, pollRspOk_of_busy h hlt, pollAnswered, hp]
  | rspLast img hp hphase h hmax hlast => rw [pollStep, if_pos ⟨hp, hphase⟩, pollRspOk_of_last h hmax hlast]; rfl
  | dlyNext hp hphase hlt => rw [pollStep, if_pos ⟨hp, hphase⟩, pollDelayDone_of_lt hlt, hp]
  | dlyLast hp hphase hmax => rw [pollStep, if_pos ⟨hp, hphase⟩, pollDelayDone_of_eq hmax]; rfl

theorem pollRow_of_pollStep {c : Params} {cpc : Nat} {r : PollRegs} {busy : Bool} {i : PollInput} {out : PollOut}
    (hidle : r.pstate = .checking ↔ r.phase ≠ .idle) (h : pollStep c cpc r busy i = .ok (some out)) :
    PollRow c r busy i out := by
  cases i with
  | start arg =>
    by_cases hp : r.pstate = .checking
    · simp [pollStep, hp] at h
    · simp only [pollStep, if_neg hp, Except.ok.injEq, Option.some.injEq] at h
      exact h ▸ .start arg hp (by_contra fun hne => hp (hidle.mpr hne))
  | issue =>
    by_cases hp : r.pstate = .checking ∧ r.phase = .issue
    · cases ha : r.arg with
      | none => simp [pollStep, hp, ha] at h
      | some arg =>
        simp only [pollStep, if_pos hp, ha, Except.ok.injEq, Option.some.injEq] at h
        obtain ⟨hp, hphase⟩ := hp
        rw [← h, pollIssued, hp]
        exact .issue arg hp hphase ha
    · simp [pollStep, hp] at h
  | xferErr code =>
    obtain ⟨⟨hp, hphase⟩, e⟩ := Option.ite_none_right_eq_some.mp (Except.ok.inj h)
    exact Option.some.inj e ▸ .rspErr code hp hphase
  | xferOk img =>
    obtain ⟨⟨hp, hphase⟩, ho⟩ := Option.ite_none_right_eq_some.mp (Except.ok.inj h)
    rcases pollRspOk_cases _ _ _ _ _ ho with ⟨hr, e⟩ | ⟨hr, hlt, e⟩ | ⟨hr, hmax, hlast, e⟩ <;> subst e
    · exact .rspReady img hp hphase hr
    · rw [pollAnswered, hp]
      exact .rspBusy img hp hphase hr hlt
    · exact .rspLast img hp hphase hr hmax hlast
  | delayDone =>
    obtain ⟨⟨hp, hphase⟩, ho⟩ := Option.ite_none_right_eq_some.mp (Except.ok.inj h)
    rcases pollDelayDone_cases _ _ _ ho with ⟨hlt, e⟩ | ⟨hmax, e⟩ <;> subst e
    · exact hp ▸ .dlyNext hp hphase hlt
    · exact .dlyLast hp hphase hmax

/-- START_BUSY is the one fault, since a POLL in CHECKING has its ARG. -/
theorem pollStep_error_iff {c : Params} {cpc : Nat} {r : PollRegs} {busy : Bool} {i : PollInput}
    (harg : r.pstate = .checking → r.arg.isSome = true) (f : Fault) :
    pollStep c cpc r busy i = .error f ↔ ∃ arg, i = .start arg ∧ r.pstate = .checking ∧ f = .startWhileBusy cpc := by
  cases i with
  | start arg => by_cases hp : r.pstate = .checking <;> simp [pollStep, hp, eq_comm]
  | issue =>
    by_cases hp : r.pstate = .checking ∧ r.phase = .issue
    · obtain ⟨arg, ha⟩ := Option.isSome_iff_exists.mp (harg hp.1)
      simp [pollStep, hp, ha]
    · simp [pollStep, hp]
  | xferOk | xferErr | delayDone => simp [pollStep]

/-- Settles O19: each row is one branch of the function, each branch one row, and only START_BUSY is a fault. -/
theorem pollStepIsTheTable : Obligations.PollStepIsTheTable := by
  unfold Obligations.PollStepIsTheTable
  intro c cpc r busy i hidle harg
  exact ⟨fun out => ⟨pollRow_of_pollStep hidle, PollRow.pollStep_eq cpc⟩, pollStep_error_iff harg⟩

/-! ### Entering and leaving CHECKING (42 R163, R174) -/

/-- Outside CHECKING, POLL's registers are changed by START alone. -/
theorem Transaction.poll_of_not_checking {s t : State} (h : Transaction s t) (hp : s.poll.pstate ≠ .checking) :
    t.poll = s.poll ∨ ∃ dst arg, t.poll = pollStart s.poll arg ∧ t.history = s.history ++ [.req (.ensureReady dst arg)] := by
  cases h with
  | start dst arg _ hpoll _ ht => exact .inr ⟨dst, arg, hpoll, ht⟩
  | quiet | submit | refused | answered => exact .inl ‹t.poll = s.poll›
  | _ => exact absurd ‹s.poll.pstate = .checking› hp

/-- Settles O21: the one transaction that moves a POLL outside CHECKING is START. -/
theorem onlyStartLeavesTerminalStates : Obligations.OnlyStartLeavesTerminalStates := by
  unfold Obligations.OnlyStartLeavesTerminalStates
  intro s t hp hstep
  have hen : pollEnabled s = false := by simp [pollEnabled, hp]
  rcases (step_transaction s t hstep).poll_of_not_checking hp with hpoll | ⟨dst, arg, hpoll, ht⟩
  · exact ⟨hen, fun hc => absurd (hpoll ▸ hc) hp, fun _ => hpoll⟩
  · exact ⟨hen, fun _ => ⟨dst, arg, ht, hpoll⟩, fun hne => absurd (by rw [hpoll]; rfl) hne⟩

/-- What moves a POLL in CHECKING leaves it in CHECKING or ends its invocation. -/
theorem Transaction.pstate_of_checking {s t : State} (h : Transaction s t) (hp : s.poll.pstate = .checking) :
    t.poll.pstate = .checking ∨ PollEnded t.poll := by
  cases h with
  | start _ _ hne => exact absurd hp hne
  | quiet | submit | refused | answered | issue | rspBusy | dlyNext => exact .inl (by rw [‹t.poll = _›]; exact hp)
  | rspErr => exact .inr (.inr (.inr (by rw [‹t.poll = _›]; rfl)))
  | rspReady => exact .inr (.inl (by rw [‹t.poll = _›]; rfl))
  | rspLast | dlyLast => exact .inr (.inr (.inl (by rw [‹t.poll = _›]; rfl)))

theorem PollEnded.pstate_ne_unknown {r : PollRegs} (h : PollEnded r) : r.pstate ≠ .unknown := by
  rcases h with h | h | h <;> simp [h]

/-- Settles O22: a POLL in CHECKING stays there or ends, and START enters CHECKING. -/
theorem unknownIsNeverReentered : Obligations.UnknownIsNeverReentered := by
  unfold Obligations.UnknownIsNeverReentered
  intro s t hstep hu
  have htr := step_transaction s t hstep
  by_cases hp : s.poll.pstate = .checking
  · rcases htr.pstate_of_checking hp with h | h
    · rw [h] at hu; cases hu
    · exact absurd hu h.pstate_ne_unknown
  · rcases htr.poll_of_not_checking hp with h | ⟨_, _, h, -⟩ <;> rw [h] at hu
    · exact hu
    · cases hu

/-! ### The Done of an invocation (42 R173) -/

/-- RESULT `res` is that of the terminal state POLL is in (10 R28). -/
def EndedWith (r : PollRegs) (res : OpResult) : Prop :=
  res = .ok ∧ r.pstate = .ready ∨ res = .timeout ∧ r.pstate = .exhausted ∨ res = .transport ∧ r.pstate = .failed

theorem EndedWith.pstate_ne_checking {r : PollRegs} {res : OpResult} (h : EndedWith r res) : r.pstate ≠ .checking := by
  rcases h with ⟨-, h⟩ | ⟨-, h⟩ | ⟨-, h⟩ <;> simp [h]

/-- The result and the code a Done carries are those of the registers `r`. -/
def DoneFits (r : PollRegs) (res : OpResult) (code : Option Word) : Prop :=
  EndedWith r res ∧ res = r.result ∧ code = if res = .transport then r.errcode else none

theorem doneFits_failed (r : PollRegs) (code : Word) :
    DoneFits { pollEnd r .failed .transport with errcode := some code } .transport (some code) :=
  ⟨.inr (.inr ⟨rfl, rfl⟩), rfl, rfl⟩

theorem doneFits_ready (r : PollRegs) : DoneFits (pollEnd r .ready .ok) .ok none := ⟨.inl ⟨rfl, rfl⟩, rfl, rfl⟩

theorem doneFits_exhausted (r : PollRegs) : DoneFits (pollEnd r .exhausted .timeout) .timeout none :=
  ⟨.inr (.inl ⟨rfl, rfl⟩), rfl, rfl⟩

/-- The events of a step have no Done, and it leaves no invocation; or one at their end, and it ends the invocation. -/
inductive StepDone (s t : State) : List Event → Prop where
  | without {es : List Event} : es.countP isDone = 0 → (s.poll.pstate = .checking → t.poll.pstate = .checking) →
    StepDone s t es
  | last {es : List Event} {res : OpResult} {code : Option Word} : es.countP isDone = 0 → s.poll.pstate = .checking →
    DoneFits t.poll res code → StepDone s t (es ++ [.done res code])

theorem StepDone.of_stay {s t : State} {es : List Event} {i d : Nat} (hes : Adds i d 0 es) (hp : t.poll.pstate = s.poll.pstate) :
    StepDone s t es :=
  .without hes.countDone (fun h => hp.trans h)

theorem Transaction.stepDone {s t : State} (h : Transaction s t) :
    ∃ es, t.history = s.history ++ es ∧ StepDone s t es := by
  cases h with
  | quiet es hpoll _ ht hes =>
    refine ⟨es, ht, ?_⟩
    rcases hes with rfl | ⟨-, hes⟩ | ⟨f, rfl⟩
    · exact .of_stay adds_nil (congrArg _ hpoll)
    · exact .of_stay (adds_local s.cfg hes) (congrArg _ hpoll)
    · exact .of_stay (adds_fault f) (congrArg _ hpoll)
  | start dst arg hp _ _ ht => exact ⟨_, ht, .without rfl (fun h => absurd h hp)⟩
  | submit img _ _ hpoll _ ht =>
    exact ⟨_, ht, .of_stay ((adds_xferReq_client img).append (adds_traceIssue _ _)) (congrArg _ hpoll)⟩
  | refused img _ _ _ hpoll _ ht => exact ⟨_, ht, .of_stay (adds_xferReq_client img) (congrArg _ hpoll)⟩
  | issue arg _ _ _ _ hpoll _ ht =>
    exact ⟨_, ht, .of_stay ((adds_xferReq_poll _).append (adds_traceIssue _ _)) (by rw [hpoll]; rfl)⟩
  | answered call a _ _ hpoll _ ht => exact ⟨_, ht, .of_stay (adds_answerEvents _ _ _) (congrArg _ hpoll)⟩
  | rspErr img a code _ hp _ _ hpoll _ ht =>
    exact ⟨_, ht, .last ((adds_xferErr code).append (adds_traceResult _ _)).countDone hp (hpoll ▸ doneFits_failed _ _)⟩
  | rspReady img a _ hp _ _ _ hpoll _ ht =>
    exact ⟨_, ht, .last ((adds_xferOk _).append (adds_traceResult _ _)).countDone hp (hpoll ▸ doneFits_ready _)⟩
  | rspBusy img a _ _ _ _ _ _ hpoll _ ht =>
    exact ⟨_, ht, .of_stay (adds_response _ a (adds_xferOk _) (adds_delayReq _)) (by rw [hpoll]; rfl)⟩
  | rspLast img a _ hp _ _ _ _ _ hpoll _ ht =>
    exact ⟨_, ht, .last ((adds_xferOk _).append (adds_traceResult _ _)).countDone hp (hpoll ▸ doneFits_exhausted _)⟩
  | dlyNext _ _ _ hpoll _ ht => exact ⟨_, ht, .of_stay adds_delayDone (by rw [hpoll])⟩
  | dlyLast hp _ _ hpoll _ ht =>
    exact ⟨_, ht, .last (es := [.delayDone]) adds_delayDone.countDone hp (hpoll ▸ doneFits_exhausted _)⟩

/-- Events that count no Done have none. -/
theorem done_not_mem {es : List Event} (h : es.countP isDone = 0) (r : OpResult) (code : Option Word) : .done r code ∉ es :=
  fun hm => List.countP_eq_zero.mp h _ hm rfl

/-- Settles O26: a step's events have no Done and leave CHECKING as it was, or end with the Done of the registers. -/
theorem doneCarriesTheResult : Obligations.DoneCarriesTheResult := by
  unfold Obligations.DoneCarriesTheResult
  intro s t hstep
  obtain ⟨es, ht, hes⟩ := (step_transaction s t hstep).stepDone
  refine ⟨es, ht, ?_⟩
  cases hes with
  | without hcount hstay =>
    rw [if_neg (fun h => h.2 (hstay h.1))]
    exact ⟨hcount, fun r code hm => absurd hm (done_not_mem hcount r code)⟩
  | @last es res code hcount hp hfits =>
    have hend : EndedWith t.poll res := hfits.1
    rw [if_pos ⟨hp, hend.pstate_ne_checking⟩, List.countP_append, hcount]
    refine ⟨rfl, fun r code' hm => ?_⟩
    rcases List.mem_append.mp hm with hm | hm
    · exact absurd hm (done_not_mem hcount r code')
    · cases List.mem_singleton.mp hm
      exact hfits

/-! ### ENSURE_READY (42 R161, R162; 44 R220, R221) -/

/-- A Done ends the wait of an ENSURE_READY, which the result code and CPC complete. -/
structure EnsureReadyDone (dst : Fin 32) (s t : State) : Prop where
  client : t.client = .ready
  cpc : t.cpc = s.cpc + 2
  cw : t.cw = s.cw.set dst (some (resultCode t.poll.result))
  result : EndedWith t.poll t.poll.result

/-- What a client that waits in ENSURE_READY sees of a step: nothing, or its Done. -/
def EnsureReadyWaits (dst : Fin 32) (s t : State) : Prop :=
  (t.client = s.client ∧ t.poll.pstate = s.poll.pstate) ∨ EnsureReadyDone dst s t

/-- It sees the client, POLL's state, CPC and CW of the state before. -/
theorem EnsureReadyWaits.congr {dst : Fin 32} {s s' t : State} (h : EnsureReadyWaits dst s' t) (hclient : s'.client = s.client)
    (hpoll : s'.poll = s.poll) (hcpc : s'.cpc = s.cpc) (hcw : s'.cw = s.cw) : EnsureReadyWaits dst s t := by
  rcases h with ⟨h, hp⟩ | ⟨h, h', h'', hres⟩
  · exact .inl ⟨hclient ▸ h, hpoll ▸ hp⟩
  · exact .inr ⟨h, hcpc ▸ h', hcw ▸ h'', hres⟩

/-- A transition inside CHECKING sends the client nothing. -/
theorem ensureReadyWaits_of_no_done {dst : Fin 32} {s : State} {out : PollOut} (hdone : out.done = none)
    (hp : out.regs.pstate = s.poll.pstate) : EnsureReadyWaits dst s (applyPoll out s) := by
  rw [applyPoll_none out s hdone]
  exact .inl ⟨rfl, hp⟩

/-- A transition out of CHECKING completes the client's request. -/
theorem ensureReadyWaits_of_finish {dst : Fin 32} {s : State} (hcl : s.client = .awaitDone dst) {r : PollRegs} {busy : Bool}
    {res : OpResult} {code : Option Word} (h : DoneFits r res code) :
    EnsureReadyWaits dst s (applyPoll (pollFinish r busy res code) s) := by
  obtain ⟨hend, hres, -⟩ := h
  rw [applyPoll_done _ _ res code rfl, deliverDone]
  simp only [pollState_client, hcl]
  exact .inr ⟨rfl, rfl, by rw [hres]; rfl, hres ▸ hend⟩

theorem ensureReadyWaits_pollTakes {dst : Fin 32} {s : State} (hcl : s.client = .awaitDone dst) (img : Image)
    (err : Option Word) : EnsureReadyWaits dst s (pollTakes img err s) := by
  rcases pollTakes_cases img err s with e | ⟨-, -, ⟨code, -, e⟩ | ⟨out, -, ho, e⟩⟩ <;> rw [e]
  · exact .inl ⟨rfl, rfl⟩
  · exact ensureReadyWaits_of_finish hcl (doneFits_failed _ _)
  · rcases pollRspOk_cases _ _ _ _ _ ho with ⟨-, e⟩ | ⟨-, -, e⟩ | ⟨-, -, -, e⟩ <;> subst e
    · exact ensureReadyWaits_of_finish hcl (doneFits_ready _)
    · exact ensureReadyWaits_of_no_done rfl rfl
    · exact ensureReadyWaits_of_finish hcl (doneFits_exhausted _)

theorem ensureReadyWaits_delayDone {dst : Fin 32} {s : State} (hcl : s.client = .awaitDone dst) {out : PollOut}
    (ho : pollDelayDone s.poll s.port.busyHazard = some out) : EnsureReadyWaits dst s (applyPoll out (log [.delayDone] s)) := by
  refine EnsureReadyWaits.congr (s' := log [.delayDone] s) ?_ rfl rfl rfl rfl
  rcases pollDelayDone_cases _ _ _ ho with ⟨-, e⟩ | ⟨-, e⟩ <;> subst e
  · exact ensureReadyWaits_of_no_done rfl rfl
  · exact ensureReadyWaits_of_finish (s := log [.delayDone] s) hcl (doneFits_exhausted _)

theorem StepKind.ensureReadyWaits {s t : State} (h : StepKind s t) {dst : Fin 32} (hcl : s.client = .awaitDone dst) :
    EnsureReadyWaits dst s t := by
  have hno : clientEnabled s ≠ true := by simp [clientEnabled, hcl]
  cases h with
  | refuse _ hen | ends hen | start _ _ _ hen | submit _ _ hen | fetch _ hen => exact absurd hen hno
  | fetchEnd _ hplace => rw [hcl] at hplace; cases hplace
  | fault f e => subst e; exact .inl ⟨rfl, rfl⟩
  | answerFault f e => subst e; exact .inl ⟨rfl, rfl⟩
  | issue arg _ _ _ e => subst e; exact .inl ⟨rfl, rfl⟩
  | answer call a _ _ e =>
    subst e
    have hcl' : (answerPort call.image a { s with draws := s.draws + 1 }).client = .awaitDone dst := hcl
    refine EnsureReadyWaits.congr (s' := answerPort call.image a { s with draws := s.draws + 1 }) ?_ rfl rfl rfl rfl
    cases call.owner with
    | poll => exact ensureReadyWaits_pollTakes hcl' _ _
    | client => exact .inl (by rw [clientTakes_of_not_awaitsAnswer _ _ _ (by rw [hcl']; rfl)]; exact ⟨rfl, rfl⟩)
  | timer out _ _ ho e => subst e; exact ensureReadyWaits_delayDone hcl ho

theorem EndedWith.codes {r : PollRegs} (h : EndedWith r r.result) :
    r.pstate = .ready ∧ resultCode r.result = 1 ∨ r.pstate = .exhausted ∧ resultCode r.result = 2 ∨
      r.pstate = .failed ∧ resultCode r.result = 3 := by
  rcases h with ⟨hr, hp⟩ | ⟨hr, hp⟩ | ⟨hr, hp⟩
  · exact .inl ⟨hp, by rw [hr]; rfl⟩
  · exact .inr (.inl ⟨hp, by rw [hr]; rfl⟩)
  · exact .inr (.inr ⟨hp, by rw [hr]; rfl⟩)

theorem exec_ensureReady (dst : Fin 32) (arg : Word) (s : State) :
    exec (.ensureReady dst arg) s = .next (startPoll dst arg (.awaitDone dst) s) := rfl

/-- Settles O20: START by its two cases; and of a waiting client a step changes nothing or completes the request. -/
theorem ensureReadyStartsAndEnds : Obligations.EnsureReadyStartsAndEnds := by
  unfold Obligations.EnsureReadyStartsAndEnds
  refine ⟨fun s dst arg => ?start, fun s t dst hcl hstep hend => ?done⟩
  case start =>
    rw [exec_ensureReady]
    split
    next hp => rw [startPoll_busy _ _ _ _ hp]
    next hp => rw [startPoll_ok _ _ _ _ hp]; rfl
  case done =>
    obtain ⟨-, d, hk⟩ := step_kind s t hstep
    rcases hk.ensureReadyWaits (dst := dst) hcl with ⟨hclient, hpstate⟩ | ⟨hclient, hcpc, hcw, hres⟩
    · have hpstate' : t.poll.pstate = s.poll.pstate := hpstate
      rcases hend with ⟨hp, hne⟩ | hne
      · exact absurd (hpstate'.trans hp) hne
      · exact absurd (hclient.trans hcl) hne
    · exact ⟨hclient, hcpc, hcw, hres.codes⟩

/-! ### ISSUE (42 R166) -/

/-- Settles O23: the status command has no data phase, so only an outstanding call stops it. -/
theorem issueSubmitsAStatusCommand : Obligations.IssueSubmitsAStatusCommand := by
  unfold Obligations.IssueSubmitsAStatusCommand
  intro s arg hp hphase ha
  rw [issueStep_some s arg ⟨hp, hphase⟩ ha]
  refine ⟨fun hcall => ?free, fun hcall => ?busy⟩
  case free =>
    obtain ⟨hop, -, -, harg, hflags⟩ := sendStatusImg_fields s.cfg arg
    have htrace : traceIssue s.cfg (sendStatusImg s.cfg arg) =
        if 1 ≤ s.cfg.diagLevel then [.traceIssue 13 arg 0x15] else [] := by
      rw [traceIssue, hop, harg, hflags]; rfl
    rw [submit_admitted _ _ _ _ (admissible_sendStatus s.cfg s.port arg hcall), admittedState, htrace]
    rfl
  case busy =>
    have hadm : admission s.cfg s.port .poll (sendStatusImg s.cfg arg) =
        .fault (.concurrentCommand .poll (sendStatusImg s.cfg arg)) := if_pos (Option.isSome_iff_ne_none.mpr hcall)
    rw [submit, hadm]

/-! ### The answers to the status command (42 R167 to R170) -/

/-- An answer to a CMD13 leaves BUSY_HAZARD (43 R208). -/
theorem busyAfter_of_sendStatus {c : Params} {img : Image} (h : opcodeOf c img = Config.opcSendStatus) (busy : Bool) :
    busyAfter c img busy = busy := if_pos h

/-- POLL's taking of an answer leaves the call as it is. -/
theorem pollTakes_call (img : Image) (err : Option Word) (s : State) : (pollTakes img err s).port.call = s.port.call := by
  rcases pollTakes_cases img err s with e | ⟨-, -, ⟨_, -, e⟩ | ⟨_, -, -, e⟩⟩ <;> simp [e]

theorem pollAnswered_setResp (c : Params) (r : PollRegs) (img : Image) (w : Resp) :
    pollAnswered c r (setResp c img w) = { r with pdesc := some (setResp c img w), lastResp := some w.r0 } := by
  rw [pollAnswered, respOf_setResp]

theorem answerEvent_of_ok {a : Answer} (he : a.err = none) (img : Image) : answerEvent img a = .xferOk img := by
  simp only [answerEvent, he]

theorem answerEvent_of_err {a : Answer} {code : Word} (he : a.err = some code) (img : Image) :
    answerEvent img a = .xferErr code := by
  simp only [answerEvent, he]

theorem answerPort_mem_of_blocksOf_zero {s : State} {img : Image} (h : blocksOf s.cfg img = 0) (a : Answer) :
    (answerPort img a s).mem = s.mem := by
  rw [answerPort_mem, transferBytes_nil _ _ _ h, memStore_nil]

theorem applyPoll_answerPort_history (out : PollOut) (img : Image) (a : Answer) (s : State) :
    (applyPoll out (answerPort img a s)).history =
      s.history ++ answerEvent (setResp s.cfg img a.resp) a :: traceResult s.cfg a ++ out.events := by
  rw [applyPoll_history, answerPort_history]

/-- A successful answer to a CMD13 is taken by the row it matches with BUSY_HAZARD as it was. -/
theorem pollTakes_answerPort_ok {s : State} {img : Image} {a : Answer} {out : PollOut}
    (hop : opcodeOf s.cfg img = Config.opcSendStatus) (hp : s.poll.pstate = .checking) (hphase : s.poll.phase = .waitRsp)
    (he : a.err = none) (ho : pollRspOk s.cfg s.poll s.port.busyHazard (setResp s.cfg img a.resp) = some out) :
    pollTakes (setResp s.cfg img a.resp) a.err (answerPort img a s) = applyPoll out (answerPort img a s) := by
  rw [he]
  refine pollTakes_ok _ (answerPort img a s) out hp hphase ?_
  rwa [answerPort_port, busyAfter_of_sendStatus hop]

/-- Settles O24: the image has no data phase, so its answer is POLL's taking of it; each clause is one row. -/
theorem statusAnswerMovesPoll : Obligations.StatusAnswerMovesPoll := by
  unfold Obligations.StatusAnswerMovesPoll
  intro s img hc hop hblocks hp hphase _
  refine ⟨fun i hi => ?performs, fun a t ht => ?answer⟩
  case performs => rw [exec_of_performs s _ i img hc hi, performCall_of_call hc]
  rw [answerCall_poll hblocks] at ht
  refine ⟨by rw [ht, pollTakes_call]; rfl, by rw [ht, pollTakes_mem, answerPort_mem_of_blocksOf_zero hblocks],
    by rw [ht, pollTakes_cd]; rfl, by rw [ht, pollTakes_fault]; rfl, fun code he => ?err, fun he hready => ?ready,
    fun he hready hlt => ?busy, fun he hready hmax hlast => ?last⟩
  case err =>
    rw [ht, he, pollTakes_err _ code (answerPort img a s) hp hphase, applyPoll_answerPort_history, answerEvent_of_err he,
      applyPoll_poll, applyPoll_port]
    exact ⟨rfl, busyAfter_of_sendStatus hop _, rfl⟩
  all_goals rw [← respOf_setResp s.cfg img a.resp] at hready
  case ready =>
    rw [ht, pollTakes_answerPort_ok hop hp hphase he (pollRspOk_of_ready hready _ _), applyPoll_answerPort_history,
      answerEvent_of_ok he, applyPoll_poll, applyPoll_port, pollAnswered_setResp]
    exact ⟨rfl, rfl, rfl⟩
  case busy =>
    rw [ht, pollTakes_answerPort_ok hop hp hphase he (pollRspOk_of_busy hready hlt _), applyPoll_answerPort_history,
      answerEvent_of_ok he, applyPoll_none _ _ rfl, pollAnswered_setResp]
    exact ⟨rfl, rfl, rfl, rfl, rfl, rfl⟩
  case last =>
    rw [ht, pollTakes_answerPort_ok hop hp hphase he (pollRspOk_of_last hready hmax hlast _), applyPoll_answerPort_history,
      answerEvent_of_ok he, applyPoll_poll, applyPoll_port, pollAnswered_setResp]
    exact ⟨rfl, rfl, rfl⟩

/-! ### DelayDone (42 R171, R172) -/

/-- Settles O25: DLY_NEXT delivers nothing, and the Done of DLY_LAST reaches the client alone. -/
theorem delayDoneMovesPoll : Obligations.DelayDoneMovesPoll := by
  unfold Obligations.DelayDoneMovesPoll
  intro s hp hphase
  refine ⟨fun hlt => ?next, fun hmax => ?last⟩
  case next => rw [timerStep_some s _ ⟨hp, hphase⟩ (pollDelayDone_of_lt hlt _), applyPoll_none _ _ rfl]; simp [pollState, log]
  case last =>
    rw [timerStep_some s _ ⟨hp, hphase⟩ (pollDelayDone_of_eq hmax _)]
    simp [pollFinish, pollEnd]

/-! ### READ_STATUS (42 R181) -/

theorem pollWord_pstate (r : PollRegs) : pollWord r 0 = some (pstateCode r.pstate) := rfl
theorem pollWord_phase (r : PollRegs) : pollWord r 1 = some (phaseCode r.phase) := rfl
theorem pollWord_attempts (r : PollRegs) : pollWord r 2 = some r.attempts := rfl
theorem pollWord_arg (r : PollRegs) : pollWord r 3 = r.arg := rfl
theorem pollWord_lastResp (r : PollRegs) : pollWord r 4 = r.lastResp := rfl
theorem pollWord_result (r : PollRegs) : pollWord r 5 = some (resultCode r.result) := rfl
theorem pollWord_errcode (r : PollRegs) : pollWord r 6 = r.errcode := rfl

theorem readStatus_wellFormed {dst : Fin 32} {n : Fin 8} (h : n = 7 → dst.val ≤ 15) :
    (Instr.readStatus dst n).wellFormed = true :=
  decide_eq_true fun hn => h (Fin.ext hn)

/-- Every register but PDESC is read as a word. -/
theorem exec_readStatus_word (s : State) (dst : Fin 32) {n : Fin 8} (hn : n ≠ 7) :
    exec (.readStatus dst n) s = .next (withPollWord n (fun v => replyWord (.readStatus dst n) dst v) s) := by
  rw [exec, execReadStatus, ifLegal_of_wellFormed (readStatus_wellFormed fun h => absurd h hn), if_neg hn]

theorem exec_readStatus_of_some {s : State} {n : Fin 8} {v : Word} (hn : n ≠ 7) (h : pollWord s.poll n = some v)
    (dst : Fin 32) : exec (.readStatus dst n) s = .next (replyWord (.readStatus dst n) dst v s) := by
  simp only [exec_readStatus_word s dst hn, withPollWord, h]

theorem exec_readStatus_of_none {s : State} {n : Fin 8} (hn : n ≠ 7) (h : pollWord s.poll n = none) (dst : Fin 32) :
    exec (.readStatus dst n) s = .next (raise (.unwrittenRead (.reg n)) s) := by
  simp only [exec_readStatus_word s dst hn, withPollWord, h]

theorem exec_readStatus_pdesc (s : State) {dst : Fin 32} (hd : dst.val ≤ 15) :
    exec (.readStatus dst 7) s = .next (readPdesc dst s) := by
  rw [exec, execReadStatus, ifLegal_of_wellFormed (readStatus_wellFormed fun _ => hd), if_pos rfl]

/-- At an index the vector has, the two updates are one. -/
theorem setIfInBounds_eq_set {α : Type} {n : Nat} (v : Vector α n) (i : Fin n) (a : α) : v.setIfInBounds i a = v.set i a := by
  ext j hj
  rw [Vector.getElem_setIfInBounds, Vector.getElem_set]

theorem readPdesc_of_some {s : State} {img : Image} (h : s.poll.pdesc = some img) {dst : Fin 32} {d : Fin 16}
    (hd : dst.val = d.val) :
    readPdesc dst s =
      { s with
        cd := s.cd.set d (some img)
        cpc := s.cpc + 1
        history := s.history ++ [.req (.readStatus dst 7), .reply (.image img)] } := by
  simp only [readPdesc, withPdesc, h, hd, setIfInBounds_eq_set]
  rfl

theorem readPdesc_of_none {s : State} (h : s.poll.pdesc = none) (dst : Fin 32) :
    readPdesc dst s = raise (.unwrittenRead (.reg 7)) s := by
  simp only [readPdesc, withPdesc, h]

/-- Settles O30: each register has its number, and a request reads it before anything else. -/
theorem readStatusCompletes : Obligations.ReadStatusCompletes := by
  unfold Obligations.ReadStatusCompletes
  refine fun s dst => ⟨fun n v h => ?word, fun d img hd h => ?pdesc, fun n h => ?unwritten⟩
  case word =>
    have hread : n ≠ 7 ∧ pollWord s.poll n = some v := by
      rcases h with ⟨rfl, rfl⟩ | ⟨rfl, rfl⟩ | ⟨rfl, rfl⟩ | ⟨rfl, h⟩ | ⟨rfl, h⟩ | ⟨rfl, rfl⟩ | ⟨rfl, h⟩
      · exact ⟨by decide, by rw [pollWord_pstate]; cases s.poll.pstate <;> rfl⟩
      · exact ⟨by decide, by rw [pollWord_phase]; cases s.poll.phase <;> rfl⟩
      · exact ⟨by decide, pollWord_attempts s.poll⟩
      · exact ⟨by decide, (pollWord_arg s.poll).trans h⟩
      · exact ⟨by decide, (pollWord_lastResp s.poll).trans h⟩
      · exact ⟨by decide, by rw [pollWord_result]; cases s.poll.result <;> rfl⟩
      · exact ⟨by decide, (pollWord_errcode s.poll).trans h⟩
    obtain ⟨hn, hv⟩ := hread
    rw [exec_readStatus_of_some hn hv, replyWord_of_frameLength_one rfl]
  case pdesc => rw [exec_readStatus_pdesc s (by omega), readPdesc_of_some h hd]
  case unwritten =>
    rcases h with ⟨rfl, h⟩ | ⟨rfl, h⟩ | ⟨rfl, h⟩ | ⟨rfl, hd, h⟩
    · exact exec_readStatus_of_none (by decide) ((pollWord_arg s.poll).trans h) dst
    · exact exec_readStatus_of_none (by decide) ((pollWord_lastResp s.poll).trans h) dst
    · exact exec_readStatus_of_none (by decide) ((pollWord_errcode s.poll).trans h) dst
    · rw [exec_readStatus_pdesc s hd, readPdesc_of_none h]

end Sys2Proof.Machine
end

section
/-! Proofs of the statements on the transport port (43 R200 to R213; 44 R226): the checks of admission, what an answer leaves, the
balance of admitted requests and answers, and what a step does to BUSY_HAZARD. -/

namespace Sys2Proof.Machine

/-! ### One answer for each admitted request (43 R207, R210) -/

/-- The number of requests outstanding at the port: one or none (43 R207). -/
def outstanding (p : PortState) : Nat := if p.call.isSome then 1 else 0

theorem outstanding_of_none {p : PortState} (h : p.call = none) : outstanding p = 0 := by simp [outstanding, h]

theorem outstanding_of_some {p : PortState} {call : Call} (h : p.call = some call) : outstanding p = 1 := by
  simp [outstanding, h]

/-- The events account for the change of the port from `p` to `p'`: what was outstanding and what they admit is what they answer
and what is outstanding then. -/
def Balanced (c : Params) (p p' : PortState) (es : List Event) : Prop :=
  outstanding p + es.countP (isAdmittedReq c) = es.countP isAnswer + outstanding p'

theorem Balanced.append {c : Params} {p p' p'' : PortState} {es es' : List Event} (h : Balanced c p p' es)
    (h' : Balanced c p' p'' es') : Balanced c p p'' (es ++ es') := by
  simp only [Balanced, List.countP_append] at *
  omega

/-- Events that are no admitted request and no answer leave the balance. -/
theorem balanced_of_counts_zero {c : Params} {es : List Event} (p : PortState) (hreq : es.countP (isAdmittedReq c) = 0)
    (hans : es.countP isAnswer = 0) : Balanced c p p es := by
  rw [Balanced, hreq, hans, Nat.add_zero, Nat.zero_add]

theorem balanced_traceIssue (c : Params) (p : PortState) (img : Image) : Balanced c p p (traceIssue c img) := by
  obtain ⟨-, -, -, hreq, hans⟩ := traceIssue_counts c img
  exact balanced_of_counts_zero p hreq hans

theorem balanced_traceResult (c : Params) (p : PortState) (a : Answer) : Balanced c p p (traceResult c a) := by
  obtain ⟨-, -, -, hreq, hans⟩ := traceResult_counts c a
  exact balanced_of_counts_zero p hreq hans

theorem balanced_local {c : Params} {es : List Event} (p : PortState) (h : es.all isLocalEvent = true) :
    Balanced c p p es := by
  obtain ⟨-, -, -, hreq, hans, -⟩ := localEvents_counts c es h
  exact balanced_of_counts_zero p hreq hans

/-- A refused request is a write, and leaves the port (60 R264). -/
theorem balanced_refused {c : Params} {img : Image} (p : PortState) (o : Owner) (hw : writeFlagOf c img ≠ 0) :
    Balanced c p p [.xferReq o img] :=
  balanced_of_counts_zero p (by simpa [isAdmittedReq] using hw) rfl

/-- An admitted request finds the port free and is outstanding then (43 R200). -/
theorem Admissible.balanced {c : Params} {p : PortState} {img : Image} (h : Admissible c p img) (o : Owner) :
    Balanced c p { p with call := some ⟨o, img⟩ } (.xferReq o img :: traceIssue c img) := by
  have hadmit : Balanced c p { p with call := some ⟨o, img⟩ } [.xferReq o img] := by
    simp [Balanced, outstanding, h.free, isAdmittedReq, h.read, isAnswer]
  exact hadmit.append (balanced_traceIssue c _ img)

theorem not_isAdmittedReq_of_isAnswer (c : Params) {e : Event} (h : isAnswer e = true) : isAdmittedReq c e = false := by
  cases e with
  | xferReq => cases h
  | _ => rfl

/-- An answer and its trace end what is outstanding (43 R205 to R207). -/
theorem balanced_answer {c : Params} {p p' : PortState} {call : Call} (hc : p.call = some call) (hc' : p'.call = none)
    {e : Event} (he : isAnswer e = true) (a : Answer) : Balanced c p p' (e :: traceResult c a) := by
  have hanswer : Balanced c p p' [e] := by
    simp [Balanced, outstanding_of_some hc, outstanding_of_none hc', not_isAdmittedReq_of_isAnswer c he, he]
  exact hanswer.append (balanced_traceResult c p' a)

theorem isAnswer_answerEvent (img : Image) (a : Answer) : isAnswer (answerEvent img a) = true := by
  unfold answerEvent; cases a.err <;> rfl

/-- The events of a step account for what it does to the port. -/
theorem Transaction.balanced {s t : State} (h : Transaction s t) :
    ∃ es, t.history = s.history ++ es ∧ Balanced s.cfg s.port t.port es := by
  cases h with
  | quiet es _ hport ht hes =>
    refine ⟨es, ht, hport ▸ ?_⟩
    rcases hes with rfl | ⟨-, hes⟩ | ⟨f, rfl⟩
    · exact balanced_of_counts_zero _ rfl rfl
    · exact balanced_local _ hes
    · exact balanced_of_counts_zero _ rfl rfl
  | submit img _ hadm _ hport ht => exact ⟨_, ht, hport ▸ hadm.balanced .client⟩
  | refused img _ _ hw _ hport ht => exact ⟨_, ht, hport ▸ balanced_refused _ .client hw⟩
  | issue arg _ _ _ hadm _ hport ht => exact ⟨_, ht, hport ▸ hadm.balanced .poll⟩
  | start _ _ _ _ hport ht | dlyNext _ _ _ _ hport ht | dlyLast _ _ _ _ hport ht =>
    exact ⟨_, ht, hport ▸ balanced_of_counts_zero _ rfl rfl⟩
  | answered call a hc _ _ hport ht =>
    exact ⟨_, ht, balanced_answer hc (congrArg PortState.call hport) (isAnswer_answerEvent _ a) a⟩
  | rspErr img a _ hc _ _ _ _ hport ht | rspReady img a hc _ _ _ _ _ hport ht | rspBusy img a hc _ _ _ _ _ _ hport ht
  | rspLast img a hc _ _ _ _ _ _ _ hport ht =>
    exact ⟨_, ht, (balanced_answer hc (congrArg PortState.call hport) rfl a).append (balanced_of_counts_zero _ rfl rfl)⟩

/-- Settles O36: after reset nothing has been asked, and the events of each step account for what it does to the port. -/
theorem oneAnswerForEachCall : Obligations.OneAnswerForEachCall := by
  unfold Obligations.OneAnswerForEachCall
  refine ⟨fun c => rfl, fun s t h hstep => ?_⟩
  obtain ⟨hcfg, -⟩ := configurationProgramAndPastAreKept s t hstep
  obtain ⟨es, ht, hes⟩ := (step_transaction s t hstep).balanced
  simp only [OneAnswerEach, Balanced, outstanding, hcfg, ht, List.countP_append] at *
  omega

/-! ### EXECUTE submits, or stops (43 R200 to R203; 44 R226) -/

theorem inBuffer_eq_false_iff (c : Params) (p n : Nat) :
    inBuffer c p n = false ↔ ¬ (c.bufAddr.toNat ≤ p ∧ p + n ≤ c.bufAddr.toNat + 512) :=
  decide_eq_false_iff_not

/-- A submission is the checks of admission in their order: the first that fails decides (60 R253 (c)). -/
theorem submit_eq (o : Owner) (img : Image) (k : State → State) (s : State) :
    submit o img k s =
      if s.port.call ≠ none then raise (.concurrentCommand o img) s
      else if writeFlagOf s.cfg img ≠ 0 then refuseWrite o img s
      else if blocksOf s.cfg img ≠ 0 ∧ (ptrOf s.cfg img).toNat % 8 ≠ 0 then
        raise (.misalignedDataBuffer (ptrOf s.cfg img)) s
      else if blocksOf s.cfg img ≠ 0 ∧ inBuffer s.cfg (ptrOf s.cfg img).toNat (transferLen s.cfg img) = false then
        raise (.bufferOutOfRange (ptrOf s.cfg img).toNat (blocksOf s.cfg img).toNat (blkszOf s.cfg img).toNat) s
      else if opcodeOf s.cfg img ≠ Config.opcSendStatus ∧ s.port.busyHazard = true then
        raise (.busyHazard (opcodeOf s.cfg img)) s
      else k (admittedState o img s) := by
  simp only [submit, admission, Option.isSome_iff_ne_none]
  split_ifs <;> rfl

/-- Settles O31: the request reads CD[SRC] and submits it. -/
theorem executeSubmitsOrStops : Obligations.ExecuteSubmitsOrStops := by
  unfold Obligations.ExecuteSubmitsOrStops
  intro s dst src img hcd
  rw [exec, execExecute, withCd_of_some hcd, submit_eq]
  simp only [inBuffer_eq_false_iff]
  rfl

/-! ### What an answer leaves (43 R205 to R208) -/

/-- A data phase within the address space lets the answer be written (20 R51). -/
theorem addrOk_transferBytes {c : Params} {img : Image}
    (h : blocksOf c img ≠ 0 → (ptrOf c img).toNat + transferLen c img ≤ 2 ^ 64) (a : Answer) :
    addrOk (ptrOf c img).toNat (transferBytes c img a).length = true := by
  by_cases hb : blocksOf c img = 0
  · exact addrOk_of_blocksOf_zero hb a
  · rw [transferBytes_length, if_neg hb]
    exact decide_eq_true (h hb)

/-- The bytes the driver stores are the drawn bytes of the transfer range, and no other. -/
theorem transferred_memStore (c : Params) (img : Image) (a : Answer) (m : List Host.Cell) :
    Transferred c img a m (memStore m (ptrOf c img).toNat (transferBytes c img a)) := by
  intro x
  rw [memByte_memStore, transferBytes_length]
  by_cases hb : blocksOf c img = 0
  · rw [if_pos hb, if_neg (by omega), if_neg (fun h => h.1 hb)]
  · rw [if_neg hb]
    simp only [ne_eq, hb, not_false_eq_true, true_and]
    split
    next hx =>
      have hlt : x - (ptrOf c img).toNat < transferLen c img := by omega
      rw [transferBytes, if_neg hb, List.getElem?_map, List.getElem?_range hlt, Option.map_some]
    next => rfl

/-- The owner of a call takes its answer (43 R205, R206). -/
def ownerTakes (o : Owner) : Image → Option Word → State → State :=
  match o with
  | .poll => pollTakes
  | .client => clientTakes

/-- A row of the transport that performs an image changes the port and the memory, and delivers the answer to the owner. -/
theorem exec_of_performs_fits {s : State} {call : Call} {i : Instr} {img : Image} {a : Answer} (hc : s.port.call = some call)
    (hi : performs s.cfg call.image i = some img) (ha : a = drawAnswer s.cfg s.draws)
    (hfit : blocksOf s.cfg img ≠ 0 → (ptrOf s.cfg img).toNat + transferLen s.cfg img ≤ 2 ^ 64) :
    exec i s = .next (ownerTakes call.owner (setResp s.cfg img a.resp) a.err
      (answerPort img a { s with draws := s.draws + 1 })) := by
  rw [exec_of_performs s call i img hc hi, performCall_of_call hc, ← ha]
  cases call.owner <;> exact congrArg Host.Outcome.next (if_pos (addrOk_transferBytes hfit a))

theorem clientTakes_of_awaitXfer {s : State} {dst : Fin 32} {src : Fin 16} (h : s.client = .awaitXfer dst src) (img : Image)
    (err : Option Word) :
    clientTakes img err s = advance 1 (writeCw dst (err.getD 0) (writeCd src img { s with client := .ready })) := by
  simp only [clientTakes, h]

/-- Settles O32: the answer is the port's and the memory's change, then the end of the client's wait. -/
theorem answerCompletesExecute : Obligations.AnswerCompletesExecute := by
  unfold Obligations.AnswerCompletesExecute
  intro s dst src img a i hcl hc hi ha hfit
  have hwait : (answerPort img a { s with draws := s.draws + 1 }).client = .awaitXfer dst src := hcl
  have hcode : a.err.getD 0 = match a.err with | none => 0 | some code => code := by cases a.err <;> rfl
  refine ⟨_, transferred_memStore s.cfg img a s.mem, ?_⟩
  rw [exec_of_performs_fits hc hi ha hfit, ownerTakes, clientTakes_of_awaitXfer hwait, hcode]
  rfl

/-- POLL's taking of an answer only adds events (42 R167 to R170). -/
theorem pollTakes_history_append (img : Image) (err : Option Word) (s : State) :
    ∃ es, (pollTakes img err s).history = s.history ++ es := by
  rcases pollTakes_cases img err s with e | ⟨-, -, ⟨_, -, e⟩ | ⟨_, -, -, e⟩⟩ <;> rw [e]
  · exact ⟨[], (List.append_nil _).symm⟩
  · exact ⟨_, applyPoll_history _ _⟩
  · exact ⟨_, applyPoll_history _ _⟩

/-- Whoever takes an answer, the call, the memory and the run's records stay, and events are only added. -/
theorem ownerTakes_frame (o : Owner) (img : Image) (err : Option Word) (s : State) :
    (ownerTakes o img err s).cfg = s.cfg ∧ (ownerTakes o img err s).program = s.program ∧
      (ownerTakes o img err s).port.call = s.port.call ∧ (ownerTakes o img err s).mem = s.mem ∧
      (ownerTakes o img err s).fault = s.fault ∧ (ownerTakes o img err s).refused = s.refused ∧
      ∃ es, (ownerTakes o img err s).history = s.history ++ es := by
  cases o with
  | poll =>
    exact ⟨pollTakes_cfg .., pollTakes_program .., pollTakes_call .., pollTakes_mem .., pollTakes_fault ..,
      pollTakes_refused .., pollTakes_history_append ..⟩
  | client =>
    exact ⟨clientTakes_cfg .., clientTakes_program .., congrArg _ (clientTakes_port ..), clientTakes_mem ..,
      clientTakes_fault .., clientTakes_refused .., [], by rw [ownerTakes, clientTakes_history, List.append_nil]⟩

/-- With XOWNER = NONE the transport has no step (43 R207). -/
theorem exec_refused_of_call_none {s : State} {i : Instr} (hi : isRequest i = false) (hc : s.port.call = none) :
    exec i s = .refused .noCallOutstanding := by
  cases i with
  | sendStatusDesc | sendExtCsdDesc => simp only [exec, execSendStatusDesc, execSendExtCsdDesc, performCall, hc]
  | mmcControlCall => simp only [exec, execMmcControlCall, hc]
  | _ => cases hi

/-- Settles O33: the answer changes the port and the memory first, and its owner then leaves what the statement names. -/
theorem transportRowsAnswerTheCall : Obligations.TransportRowsAnswerTheCall := by
  unfold Obligations.TransportRowsAnswerTheCall
  refine ⟨fun s call i img a hc hi ha hfit => ?_, fun s i => exec_refused_of_call_none⟩
  obtain ⟨hcfg, hprogram, hcall, hmem, hfault, hrefused, es, hhistory⟩ :=
    ownerTakes_frame call.owner (setResp s.cfg img a.resp) a.err (answerPort img a { s with draws := s.draws + 1 })
  refine ⟨_, traceResult s.cfg a ++ es, exec_of_performs_fits hc hi ha hfit, hcall, ?memory, ?history, hcfg, hprogram,
    hfault, hrefused, fun ho => ?client, fun ho => ?poll⟩
  case memory => rw [hmem]; exact transferred_memStore s.cfg img a s.mem
  case history => rw [hhistory, answerPort_history, List.append_assoc]; rfl
  case client => rw [ho, ownerTakes, clientTakes_poll, clientTakes_port]; exact ⟨rfl, rfl⟩
  case poll => rw [ho, ownerTakes, pollTakes_cd]; rfl

/-! ### BUSY_HAZARD (43 R208) -/

theorem busyAfter_of_ne_sendStatus {c : Params} {img : Image} (h : opcodeOf c img ≠ Config.opcSendStatus) (busy : Bool) :
    busyAfter c img busy = true := if_neg h

/-- POLL's call is a CMD13 (42 R166). -/
theorem Consistent.opcodeOf_poll_call {s : State} (hs : Consistent s) {img : Image} (hc : s.port.call = some ⟨.poll, img⟩) :
    opcodeOf s.cfg img = Config.opcSendStatus := by
  have h := hs.callLegal_of_call hc
  simp only [callLegal, Bool.and_eq_true, decide_eq_true_eq] at h
  obtain ⟨-, hop, -⟩ := h
  exact hop

/-- What a step does to BUSY_HAZARD. -/
inductive BusyChange (s t : State) : Prop where
  /-- It stays; a call that is answered is a CMD13. -/
  | kept : t.port.busyHazard = s.port.busyHazard →
    (∀ call, s.port.call = some call → t.port.call = none → opcodeOf s.cfg call.image = 13) → BusyChange s t
  /-- The answer to another command sets it. -/
  | set (call : Call) : s.port.call = some call → opcodeOf s.cfg call.image ≠ 13 → t.port.busyHazard = true → BusyChange s t
  /-- RSP_READY clears it. -/
  | cleared (img : Image) : s.port.call = some ⟨.poll, img⟩ → opcodeOf s.cfg img = 13 → s.poll.pstate = .checking →
    t.poll.pstate = .ready → lastReady t.poll true = true → t.port.busyHazard = false → BusyChange s t

/-- A step that leaves an outstanding call outstanding, and BUSY_HAZARD. -/
theorem busyChange_of_call {s t : State} (hbusy : t.port.busyHazard = s.port.busyHazard)
    (hcall : ∀ call, s.port.call = some call → t.port.call ≠ none) : BusyChange s t :=
  .kept hbusy fun call hc ht => absurd ht (hcall call hc)

theorem busyChange_of_port {s t : State} (hport : t.port = s.port) : BusyChange s t :=
  busyChange_of_call (congrArg _ hport) fun call hc => by rw [hport, hc]; exact Option.some_ne_none call

/-- An answer to a CMD13 leaves BUSY_HAZARD, and any other sets it. -/
theorem busyChange_of_answered {s t : State} {call : Call} (hc : s.port.call = some call)
    (hport : t.port = answeredPort s.cfg call.image s.port) : BusyChange s t := by
  have hbusy : t.port.busyHazard = busyAfter s.cfg call.image s.port.busyHazard := congrArg _ hport
  by_cases hop : opcodeOf s.cfg call.image = Config.opcSendStatus
  · refine .kept (hbusy.trans (busyAfter_of_sendStatus hop _)) fun call' hc' _ => ?_
    cases hc.symm.trans hc'
    exact hop
  · exact .set call hc hop (hbusy.trans (busyAfter_of_ne_sendStatus hop _))

theorem Transaction.busyChange {s t : State} (h : Transaction s t) (hs : Consistent s) : BusyChange s t := by
  cases h with
  | quiet _ _ hport | start _ _ _ _ hport | refused _ _ _ _ _ hport | dlyNext _ _ _ _ hport | dlyLast _ _ _ _ hport =>
    exact busyChange_of_port hport
  | submit _ _ _ _ hport | issue _ _ _ _ _ _ hport =>
    exact busyChange_of_call (by rw [hport]) fun _ _ => by rw [hport]; exact Option.some_ne_none _
  | answered call a hc _ _ hport => exact busyChange_of_answered hc hport
  | rspErr _ _ _ hc _ _ _ _ hport | rspBusy _ _ hc _ _ _ _ _ _ hport | rspLast _ _ hc _ _ _ _ _ _ _ hport =>
    exact busyChange_of_answered hc hport
  | rspReady img a hc hp _ _ hready hpoll hport _ =>
    refine .cleared img hc (hs.opcodeOf_poll_call hc) hp (by rw [hpoll]; rfl) ?_ (by rw [hport])
    have hlast := lastReady_pollAnswered s.cfg s.poll (setResp s.cfg img a.resp)
    rw [respOf_setResp, hready] at hlast
    rw [hpoll]
    exact hlast

/-- Settles O34: each clause says which of the three changes a step was. -/
theorem busyHazardRule : Obligations.BusyHazardRule := by
  unfold Obligations.BusyHazardRule
  intro s t hs hstep _
  cases (step_transaction s t hstep).busyChange hs with
  | kept hbusy hop =>
    refine ⟨fun call hc hn hne => absurd (hop call hc hn) hne, fun h h' => ?_, fun h h' => ?_⟩ <;>
      rw [hbusy, h] at h' <;> cases h'
  | set call hc hop hbusy =>
    exact ⟨fun _ _ _ _ => hbusy, fun _ _ => ⟨call, hc, hop⟩, fun _ h' => absurd (hbusy.symm.trans h') nofun⟩
  | cleared img hc hop hp hp' hlast hbusy =>
    refine ⟨fun call hc' _ hne => ?_, fun _ h' => absurd (hbusy.symm.trans h') nofun,
      fun _ _ => ⟨by rw [State.xowner, hc]; rfl, hp, hp', hlast⟩⟩
    cases hc.symm.trans hc'
    exact absurd hop hne

end Sys2Proof.Machine
end

section
/-! Proofs of the statements on the client's own requests (44 R222 to R228): what each leaves, and the end of the client. -/

namespace Sys2Proof.Machine

/-! ### MOVI, JZ and JNZ (44 R223 to R225) -/

theorem jumpIf_eq (taken : Bool) (target : Word) (s : State) :
    jumpIf taken target s = { s with cpc := if taken then target.toNat else s.cpc + 2 } := by
  cases taken <;> rfl

theorem exec_jz_of_some {s : State} {src : Fin 32} {w : Word} (h : s.cw[src] = some w) (target : Word) :
    exec (.jz src target) s = .next (jumpIf (decide (w = 0)) target s) := by
  rw [exec, execJz, withCw_of_some h]

theorem exec_jnz_of_some {s : State} {src : Fin 32} {w : Word} (h : s.cw[src] = some w) (target : Word) :
    exec (.jnz src target) s = .next (jumpIf (decide (w ≠ 0)) target s) := by
  rw [exec, execJnz, withCw_of_some h]

/-- Settles O37: MOVI reads nothing, and a jump reads CW[SRC] before anything else. -/
theorem moviAndJumpsComplete : Obligations.MoviAndJumpsComplete := by
  unfold Obligations.MoviAndJumpsComplete
  refine ⟨fun s dst v => rfl, fun s src target h => ?unwritten, fun s src w target h => ⟨?jz, ?jnz⟩⟩
  case unwritten =>
    simp only [List.forall_mem_cons]
    exact ⟨congrArg _ (withCw_of_none h _), congrArg _ (withCw_of_none h _), List.forall_mem_nil _⟩
  case jz => simp only [exec_jz_of_some h, jumpIf_eq, decide_eq_true_eq]
  case jnz => simp only [exec_jnz_of_some h, jumpIf_eq, decide_eq_true_eq]

/-! ### HALT (44 R222, R236) -/

theorem clientEnabled_of_finished {s : State} (h : s.client = .finished) : clientEnabled s = false := by
  simp only [clientEnabled, h, Bool.and_false]

/-- A client that waits for no answer and no Done sees nothing of an answer. -/
theorem ownerTakes_client_cpc_of_not_waiting {s : State} (hdone : awaitsDone s.client = false)
    (hanswer : awaitsAnswer s.client = false) (o : Owner) (img : Image) (err : Option Word) :
    (ownerTakes o img err s).client = s.client ∧ (ownerTakes o img err s).cpc = s.cpc := by
  cases o with
  | poll =>
    obtain ⟨hclient, hcpc, -⟩ := pollTakes_of_not_awaitsDone img err s hdone
    exact ⟨hclient, hcpc⟩
  | client =>
    rw [ownerTakes, clientTakes_of_not_awaitsAnswer img err s hanswer]
    exact ⟨rfl, rfl⟩

theorem StepKind.finished {s t : State} (h : StepKind s t) (hcl : s.client = .finished) :
    t.client = .finished ∧ t.cpc = s.cpc := by
  have hno : clientEnabled s ≠ true := Bool.eq_false_iff.mp (clientEnabled_of_finished hcl)
  have hdone : awaitsDone s.client = false := by rw [hcl]; rfl
  have hanswer : awaitsAnswer s.client = false := by rw [hcl]; rfl
  cases h with
  | refuse _ hen | ends hen | start _ _ _ hen | submit _ _ hen | fetch _ hen => exact absurd hen hno
  | fetchEnd _ hplace => rw [hcl] at hplace; cases hplace
  | fault f e | answerFault f e | issue _ _ _ _ e => subst e; exact ⟨hcl, rfl⟩
  | answer call a _ _ e =>
    obtain ⟨hclient, hcpc⟩ := ownerTakes_client_cpc_of_not_waiting
      (s := answerPort call.image a { s with draws := s.draws + 1 }) hdone hanswer call.owner
      (setResp s.cfg call.image a.resp) a.err
    subst e
    cases ho : call.owner <;> rw [ho] at hclient hcpc <;> exact ⟨hclient.trans hcl, hcpc⟩
  | timer out _ _ _ e =>
    subst e
    rw [applyPoll_of_not_awaitsDone out (log [.delayDone] s) hdone]
    exact ⟨hcl, rfl⟩

/-- Settles O38: a finished client has no step of its own, and it waits for nothing another agent's step delivers. -/
theorem haltFinishesTheClient : Obligations.HaltFinishesTheClient := by
  unfold Obligations.HaltFinishesTheClient
  refine ⟨fun s => rfl, fun s => clientEnabled_of_finished, fun s t hcl hstep => ?_⟩
  obtain ⟨-, d, hk⟩ := step_kind s t hstep
  exact hk.finished hcl

/-! ### ZERO_BUF (44 R227) -/

theorem zeroFill_of_fits (k : State → State) {s : State} (h : s.cfg.bufAddr.toNat + 512 ≤ 2 ^ 64) :
    zeroFill k s = k (writeMem s.cfg.bufAddr.toNat (List.replicate Config.extcsdBytes 0) s) :=
  if_pos (decide_eq_true h)

theorem zeroFilled_memStore (c : Params) (m : List Host.Cell) :
    ZeroFilled c m (memStore m c.bufAddr.toNat (List.replicate Config.extcsdBytes 0)) := by
  intro x
  rw [memByte_memStore, List.length_replicate]
  split
  next hx => exact List.getElem?_replicate_of_lt (by omega)
  next => rfl

/-- Settles O39: the request is the zero-fill of the buffer. -/
theorem zeroBufCompletes : Obligations.ZeroBufCompletes := by
  unfold Obligations.ZeroBufCompletes
  intro s h
  refine ⟨_, zeroFilled_memStore s.cfg s.mem, ?_⟩
  rw [exec, execZeroBuf, zeroFill_of_fits _ h]
  rfl

/-! ### READ_BUF (44 R228) -/

theorem withByte_of_some {a : Nat} {s : State} {b : Byte} (h : memByte s.mem a = some b) (k : Byte → State → State) :
    withByte a k s = k b s := by
  simp only [withByte, h]

theorem withMem32_of_some {a : Nat} {s : State} {b0 b1 b2 b3 : Byte} (ha : a + 4 ≤ 2 ^ 64) (h0 : memByte s.mem a = some b0)
    (h1 : memByte s.mem (a + 1) = some b1) (h2 : memByte s.mem (a + 2) = some b2) (h3 : memByte s.mem (a + 3) = some b3)
    (k : Word → State → State) : withMem32 a k s = k (assemble32 s.cfg.endian b0 b1 b2 b3) s := by
  have hok : addrOk a 4 = true := decide_eq_true ha
  rw [withMem32, if_pos hok, withByte_of_some h0, withByte_of_some h1, withByte_of_some h2, withByte_of_some h3]

/-- Settles O40: the request is legal, and reads the word at BUF_ADDR + offset. -/
theorem readBufCompletes : Obligations.ReadBufCompletes := by
  unfold Obligations.ReadBufCompletes
  intro s dst off b0 b1 b2 b3 h4 hle ha h0 h1 h2 h3
  have hlegal : (Instr.readBuf dst off).wellFormed = true := decide_eq_true ⟨h4, hle⟩
  rw [exec, execReadBuf, ifLegal, if_pos hlegal, withMem32_of_some ha h0 h1 h2 h3]
  rfl

end Sys2Proof.Machine
end

section
/-! Proofs of the statements on FETCH_EXTCSD (44 R229 to R238). The client's own steps of a fetch are written out one by one; what
any step does to a fetch in progress is said once, in `FetchStep`; and each step brings the fetch nearer its end. -/

namespace Sys2Proof.Machine

/-! ### The first step (44 R230, R231) -/

/-- Settles O43: the first step is the zero-fill of the buffer. -/
theorem fetchStartsByZeroing : Obligations.FetchStartsByZeroing := by
  unfold Obligations.FetchStartsByZeroing
  intro s dst h
  refine ⟨_, zeroFilled_memStore s.cfg s.mem, ?_⟩
  rw [exec, execFetchExtcsd, zeroFill_of_fits _ h]
  rfl

/-! ### The client's own steps between the waits (44 R232 to R234) -/

/-- A client that has a step is the only agent that has one (20 R65). -/
theorem Consistent.enabled_of_client {s : State} (hs : Consistent s) (hen : clientEnabled s = true) : enabled s = [.client] := by
  obtain ⟨hphase, -, hcall⟩ := hs.sync.client_turn hen
  have htransport : transportEnabled s = false := by simp [transportEnabled, hcall]
  simp [enabled, hen, htransport, pollEnabled_eq_false, timerEnabled_eq_false, hphase]

section
variable {s : State} {dst : Fin 32} (hs : Consistent s) (hf : s.fault = none) (hr : s.refused = none)
include hs hf hr

theorem Consistent.step_of_fetching {k : FStep} (hcl : s.client = .fetching dst k false) :
    step s = .next (fetchContinue dst k s) ∧ s.poll.pstate ≠ .checking ∧ s.port.call = none := by
  have hen : clientEnabled s = true := by simp [clientEnabled, isRefused, hr, hcl]
  obtain ⟨-, hpstate, hcall⟩ := hs.sync.client_turn hen
  obtain ⟨-, hfetch, -⟩ := stepRunsOneAgent s hf
  exact ⟨hfetch dst k (hs.enabled_of_client hen) hcl, hpstate, hcall⟩

/-- The first check (44 R232). -/
theorem Consistent.step_of_fetch_one (hcl : s.client = .fetching dst .one false) :
    step s = .next { s with
      poll := ⟨.checking, .issue, 0, some s.cfg.statusArg, none, .none, none, s.poll.pdesc⟩
      client := .fetching dst .two true
      history := s.history ++ [.req (.ensureReady dst s.cfg.statusArg)] } := by
  obtain ⟨hstep, hpstate, -⟩ := hs.step_of_fetching hf hr hcl
  rw [hstep, fetchContinue, startPoll_ok _ _ _ _ hpstate]
  rfl

/-- The CMD8, which the port admits after an OK of the first check (44 R233). -/
theorem Consistent.step_of_fetch_two (halign : s.cfg.bufAddr.toNat % 8 = 0) (hcl : s.client = .fetching dst .two false) :
    step s = .next { s with
      port := ⟨some ⟨.client, sendExtCsdImg s.cfg s.cfg.bufAddr⟩, false⟩
      client := .fetching dst .three true
      history := s.history ++ .xferReq .client (sendExtCsdImg s.cfg s.cfg.bufAddr) ::
        (if 1 ≤ s.cfg.diagLevel then [.traceIssue 8 0 0x35] else []) } := by
  obtain ⟨hstep, -, hcall⟩ := hs.step_of_fetching hf hr hcl
  have hclear : s.port.busyHazard = false := hs.clear dst hcl
  obtain ⟨hop, -, -, -, -, harg, hflags⟩ := sendExtCsdImg_fields s.cfg s.cfg.bufAddr
  have htrace : traceIssue s.cfg (sendExtCsdImg s.cfg s.cfg.bufAddr) =
      if 1 ≤ s.cfg.diagLevel then [.traceIssue 8 0 0x35] else [] := by
    rw [traceIssue, hop, harg, hflags]; rfl
  rw [hstep, fetchContinue, submit_admitted _ _ _ _ (admissible_sendExtCsd s.cfg s.port halign hcall hclear), ← htrace,
    ← hclear]
  rfl

/-- The second check (44 R234). -/
theorem Consistent.step_of_fetch_three (hcl : s.client = .fetching dst .three false) :
    step s = .next { s with
      poll := ⟨.checking, .issue, 0, some s.cfg.statusArg, none, .none, none, s.poll.pdesc⟩
      client := .fetching dst .four true
      history := s.history ++ [.req (.ensureReady dst s.cfg.statusArg)] } := by
  obtain ⟨hstep, hpstate, -⟩ := hs.step_of_fetching hf hr hcl
  rw [hstep, fetchContinue, startPoll_ok _ _ _ _ hpstate]
  rfl

end

/-- Settles O44: each clause is one of the client's own steps. -/
theorem fetchChecksReadsAndChecks : Obligations.FetchChecksReadsAndChecks := by
  unfold Obligations.FetchChecksReadsAndChecks
  intro s dst hs hrange hf hr
  obtain ⟨halign, -⟩ := (inRange_iff s.cfg).mp hrange
  exact ⟨hs.step_of_fetch_one hf hr, hs.step_of_fetch_two hf hr halign, hs.step_of_fetch_three hf hr⟩

/-! ### What a step does to a fetch in progress (44 R230, R237) -/

/-- The variables of the client that only the end of a fetch writes. -/
structure FetchKept (s t : State) : Prop where
  cw : t.cw = s.cw
  cpc : t.cpc = s.cpc
  cresult : t.cresult = s.cresult

/-- Where a fetch that goes on stands after a step; `before` is the history before it. -/
inductive FetchMove (dst : Fin 32) (before : List Event) (t : State) : FStep → Bool → Prop where
  | stays {k : FStep} {w : Bool} : t.client = .fetching dst k w → FetchMove dst before t k w
  | firstCheck : t.client = .fetching dst .two true → FetchMove dst before t .one false
  | firstOk : t.client = .fetching dst .two false → t.poll.result = .ok → FetchMove dst before t .two true
  | read : t.client = .fetching dst .three true → FetchMove dst before t .two false
  | readOk (img : Image) (es : List Event) : t.client = .fetching dst .three false →
    t.history = before ++ .xferOk img :: es → FetchMove dst before t .three true
  | secondCheck : t.client = .fetching dst .four true → FetchMove dst before t .three false

/-- A fetch is complete: the client stands past the request, and CW[DST] holds the code of CRESULT. -/
structure FetchDone (dst : Fin 32) (s t : State) : Prop where
  client : t.client = .ready
  cw : t.cw = s.cw.set dst (some (resultCode t.cresult))
  cpc : t.cpc = s.cpc + 1

/-- Which of its parts ended a fetch, with the registers that report it; `before` is the history before the step. -/
inductive FetchCause (before : List Event) (t : State) : FStep → Prop where
  | checked : t.cresult = .ok → t.poll.pstate = .ready → t.port.busyHazard = false → t.cerr = none → FetchCause before t .four
  | checkFailed {k : FStep} : k = .two ∨ k = .four → t.cresult = t.poll.result → t.cerr = t.poll.errcode →
    (t.poll.pstate = .exhausted ∧ t.cresult = .timeout ∨ t.poll.pstate = .failed ∧ t.cresult = .transport) →
    FetchCause before t k
  | readFailed (code : Word) (es : List Event) : t.cresult = .transport → t.cerr = some code →
    t.history = before ++ .xferErr code :: es → FetchCause before t .three

/-- What a step does to a fetch that stands at step `k`. -/
inductive FetchStep (dst : Fin 32) (s t : State) (k : FStep) (w : Bool) : Prop where
  | goesOn : FetchKept s t → FetchMove dst s.history t k w → FetchStep dst s t k w
  | ends : FetchDone dst s t → FetchCause s.history t k → FetchStep dst s t k w

theorem FetchMove.client {dst : Fin 32} {before : List Event} {t : State} {k : FStep} {w : Bool}
    (h : FetchMove dst before t k w) : ∃ k' w', t.client = .fetching dst k' w' := by
  cases h <;> exact ⟨_, _, ‹t.client = _›⟩

theorem FetchCause.result {before : List Event} {t : State} {k : FStep} (h : FetchCause before t k) :
    t.cresult = .ok ∨ t.cresult = .timeout ∨ t.cresult = .transport := by
  cases h with
  | checked hr => exact .inl hr
  | checkFailed _ _ _ hr =>
    rcases hr with ⟨-, hr⟩ | ⟨-, hr⟩
    · exact .inr (.inl hr)
    · exact .inr (.inr hr)
  | readFailed _ _ hr => exact .inr (.inr hr)

theorem FetchKept.done {dst : Fin 32} {s t u : State} (h : FetchKept s t) (hu : FetchDone dst t u) : FetchDone dst s u :=
  ⟨hu.client, h.cw ▸ hu.cw, h.cpc ▸ hu.cpc⟩

theorem fetchDone_finishFetch (dst : Fin 32) (r : OpResult) {s u : State} (h : FetchKept s u) :
    FetchDone dst s (finishFetch dst r u) :=
  ⟨rfl, by rw [finishFetch_cw, h.cw, finishFetch_cresult], by rw [finishFetch_cpc, h.cpc]⟩

/-! ### The places of a fetch that waits (44 R220) -/

theorem awaitsDone_fetching {dst : Fin 32} {k : FStep} {w : Bool} (h : awaitsDone (.fetching dst k w) = true) :
    (k = .two ∨ k = .four) ∧ w = true := by
  cases w with
  | false => cases k <;> cases h
  | true =>
    refine ⟨?_, rfl⟩
    cases k with
    | two => exact .inl rfl
    | four => exact .inr rfl
    | one | three | five => cases h

theorem awaitsAnswer_fetching {dst : Fin 32} {k : FStep} {w : Bool} (h : awaitsAnswer (.fetching dst k w) = true) :
    k = .three ∧ w = true := by
  cases w with
  | false => cases k <;> cases h
  | true =>
    cases k with
    | three => exact ⟨rfl, rfl⟩
    | one | two | four | five => cases h

/-! ### A Done inside a fetch (44 R232, R234) -/

section
variable {s : State} {dst : Fin 32}

theorem deliverDone_first_ok (hcl : s.client = .fetching dst .two true) (code : Option Word) :
    deliverDone .ok code s = { s with client := .fetching dst .two false } := by
  simp only [deliverDone, hcl, if_true]

theorem deliverDone_second_ok (hcl : s.client = .fetching dst .four true) (code : Option Word) :
    deliverDone .ok code s = finishFetch dst .ok s := by
  simp only [deliverDone, hcl, if_true]

theorem deliverDone_check_failed {k : FStep} (hk : k = .two ∨ k = .four) (hcl : s.client = .fetching dst k true) {r : OpResult}
    (hr : r ≠ .ok) (code : Option Word) : deliverDone r code s = finishFetch dst r { s with cerr := code } := by
  rcases hk with rfl | rfl <;> simp only [deliverDone, hcl, if_neg hr]

end

/-- What a transition of POLL leaves while it is in CHECKING: no Done, or the Done of its registers (42 R167 to R173). -/
inductive PollMove (s : State) : State → Prop where
  | inside (out : PollOut) : out.done = none → PollMove s (applyPoll out s)
  | ends (r : PollRegs) (busy : Bool) (res : OpResult) (code : Option Word) : DoneFits r res code → (res = .ok → busy = false) →
    PollMove s (applyPoll (pollFinish r busy res code) s)

theorem pollMove_pollTakes {s : State} (hp : s.poll.pstate = .checking) (hphase : s.poll.phase = .waitRsp)
    (hle : s.poll.attempts.toNat ≤ Config.maxAttempts) (img : Image) (err : Option Word) : PollMove s (pollTakes img err s) := by
  cases err with
  | some code =>
    rw [pollTakes_err img code s hp hphase]
    exact .ends _ _ _ _ (doneFits_failed _ _) nofun
  | none =>
    obtain ⟨out, ho⟩ := pollRspOk_some s.cfg s.poll s.port.busyHazard img hle
    rw [pollTakes_ok img s out hp hphase ho]
    rcases pollRspOk_cases _ _ _ _ _ ho with ⟨-, e⟩ | ⟨-, -, e⟩ | ⟨-, -, -, e⟩ <;> subst e
    · exact .ends _ _ _ _ (doneFits_ready _) fun _ => rfl
    · exact .inside _ rfl
    · exact .ends _ _ _ _ (doneFits_exhausted _) nofun

theorem pollMove_delayDone {r : PollRegs} {busy : Bool} {out : PollOut} (ho : pollDelayDone r busy = some out) (s : State) :
    PollMove s (applyPoll out s) := by
  rcases pollDelayDone_cases _ _ _ ho with ⟨-, e⟩ | ⟨-, e⟩ <;> subst e
  · exact .inside _ rfl
  · exact .ends _ _ _ _ (doneFits_exhausted _) nofun

/-- A code comes with TRANSPORT alone, so a Done carries ERRCODE as it is (10 R29). -/
theorem DoneFits.code_eq {r : PollRegs} {res : OpResult} {code : Option Word} (h : DoneFits r res code) (hr : PollResult r) :
    code = r.errcode := by
  obtain ⟨-, hres, hcode⟩ := h
  obtain ⟨-, -, -, -, herr, -⟩ := hr
  rw [hcode]
  split
  next => rfl
  next hne =>
    rw [← hres] at herr
    exact (Option.not_isSome_iff_eq_none.mp (fun h => hne (herr.mp h))).symm

/-- A Done sends a fetch on to the read, or ends it with the result of the check. -/
theorem PollMove.fetchStep {dst : Fin 32} {s s' t : State} (h : PollMove s' t) (hkept : FetchKept s s') {k : FStep}
    (hk : k = .two ∨ k = .four) (hcl : s'.client = .fetching dst k true) (hcerr : s'.cerr = none) (hres : PollResult t.poll) :
    FetchStep dst s t k true := by
  obtain ⟨hcw, hcpc, hcresult⟩ := hkept
  cases h with
  | inside out hdone =>
    rw [applyPoll_none out s' hdone]
    exact .goesOn ⟨hcw, hcpc, hcresult⟩ (.stays hcl)
  | ends r busy res code hfits hok =>
    rw [applyPoll_poll] at hres
    have hcode : code = r.errcode := hfits.code_eq hres
    obtain ⟨hend, hr, -⟩ := hfits
    have hcl' : (pollState (pollFinish r busy res code) s').client = .fetching dst k true := hcl
    rw [applyPoll_done _ _ res code rfl]
    rcases hend with ⟨rfl, hp⟩ | hend
    · rcases hk with rfl | rfl
      · rw [deliverDone_first_ok hcl']
        exact .goesOn ⟨hcw, hcpc, hcresult⟩ (.firstOk rfl hr.symm)
      · rw [deliverDone_second_ok hcl']
        exact .ends (fetchDone_finishFetch dst .ok ⟨hcw, hcpc, hcresult⟩) (.checked rfl hp (hok rfl) hcerr)
    · have hne : res ≠ .ok := by rcases hend with ⟨rfl, -⟩ | ⟨rfl, -⟩ <;> decide
      rw [deliverDone_check_failed hk hcl' hne]
      exact .ends (fetchDone_finishFetch dst res ⟨hcw, hcpc, hcresult⟩)
        (.checkFailed hk hr hcode (hend.imp And.symm And.symm))

/-! ### The answer to the CMD8 (44 R233) -/

section
variable {s : State} {dst : Fin 32} (hcl : s.client = .fetching dst .three true)
include hcl

theorem clientTakes_read_ok (img : Image) : clientTakes img none s = { s with client := .fetching dst .three false } := by
  simp only [clientTakes, hcl]

theorem clientTakes_read_failed (img : Image) (code : Word) :
    clientTakes img (some code) s = finishFetch dst .transport { s with cerr := some code } := by
  simp only [clientTakes, hcl]

theorem fetchStep_read (img : Image) (a : Answer) (d : Nat) :
    FetchStep dst s (clientTakes (setResp s.cfg img a.resp) a.err (answerPort img a { s with draws := d })) .three true := by
  have hcl' : (answerPort img a { s with draws := d }).client = .fetching dst .three true := hcl
  have hhistory := answerPort_history img a { s with draws := d }
  cases he : a.err with
  | none =>
    rw [answerEvent_of_ok he] at hhistory
    rw [clientTakes_read_ok hcl']
    exact .goesOn ⟨rfl, rfl, rfl⟩ (.readOk _ _ rfl hhistory)
  | some code =>
    rw [answerEvent_of_err he] at hhistory
    rw [clientTakes_read_failed hcl']
    exact .ends ⟨rfl, rfl, rfl⟩ (.readFailed code _ rfl rfl hhistory)

end

/-! ### Every step of a fetch -/

theorem StepKind.fetchStep {s t : State} (h : StepKind s t) (hs : Consistent s) {dst : Fin 32} {k : FStep} {w : Bool}
    (hcl : s.client = .fetching dst k w) : FetchStep dst s t k w := by
  have hcerr : s.cerr = none := Option.not_isSome_iff_eq_none.mp (hs.cerr_none_of_fetching hcl)
  have hres : PollResult t.poll := (h.consistent hs).result
  cases h with
  | fault _ e | answerFault _ e | refuse _ _ _ _ e | issue _ _ _ _ e => subst e; exact .goesOn ⟨rfl, rfl, rfl⟩ (.stays hcl)
  | ends _ hready | fetch _ _ hready => exact nomatch hcl.symm.trans hready
  | start dst' arg next _ _ hnext e =>
    subst e
    rcases hnext with ⟨hready, -⟩ | ⟨hone, rfl, -⟩ | ⟨hthree, rfl, -⟩
    · exact nomatch hcl.symm.trans hready
    · cases hcl.symm.trans hone
      exact .goesOn ⟨rfl, rfl, rfl⟩ (.firstCheck rfl)
    · cases hcl.symm.trans hthree
      exact .goesOn ⟨rfl, rfl, rfl⟩ (.secondCheck rfl)
  | submit img next _ _ hnext e =>
    subst e
    rcases hnext with ⟨hready, -⟩ | ⟨dst', htwo, rfl, -⟩
    · exact nomatch hcl.symm.trans hready
    · cases hcl.symm.trans htwo
      exact .goesOn ⟨rfl, rfl, rfl⟩ (.read rfl)
  | fetchEnd dst' hplace _ =>
    obtain ⟨-, -, -, -, hplace'⟩ := hs.sync
    rw [hplace] at hplace'; cases hplace'
  | answer call a hc _ e =>
    obtain ⟨o, img⟩ := call
    cases o with
    | poll =>
      obtain ⟨hp, hphase, hdone, -⟩ := hs.sync.poll_call hc
      rw [hcl] at hdone
      obtain ⟨hk, rfl⟩ := awaitsDone_fetching hdone
      have hmove := pollMove_pollTakes (s := answerPort img a { s with draws := s.draws + 1 }) hp hphase hs.budget.1
        (setResp s.cfg img a.resp) a.err
      subst e
      exact hmove.fetchStep (s := s) ⟨rfl, rfl, rfl⟩ hk hcl hcerr hres
    | client =>
      obtain ⟨hanswer, -⟩ := hs.sync.client_call hc
      rw [hcl] at hanswer
      obtain ⟨rfl, rfl⟩ := awaitsAnswer_fetching hanswer
      subst e
      exact fetchStep_read hcl img a (s.draws + 1)
  | timer out hp _ ho e =>
    have hdone := (hs.checking hp).client
    rw [hcl] at hdone
    obtain ⟨hk, rfl⟩ := awaitsDone_fetching hdone
    subst e
    exact (pollMove_delayDone ho (log [.delayDone] s)).fetchStep (s := s) ⟨rfl, rfl, rfl⟩ hk hcl hcerr hres

theorem Consistent.fetchStep {s t : State} (hs : Consistent s) {dst : Fin 32} {k : FStep} {w : Bool}
    (hcl : s.client = .fetching dst k w) (hstep : step s = .next t) : FetchStep dst s t k w := by
  obtain ⟨-, d, hk⟩ := step_kind s t hstep
  cases hk.fetchStep (hs.of_mark s.fault s.refused s.history d) hcl with
  | goesOn hkept hmove => exact .goesOn ⟨hkept.cw, hkept.cpc, hkept.cresult⟩ hmove
  | ends hdone hcause => exact .ends ⟨hdone.client, hdone.cw, hdone.cpc⟩ hcause

/-- Settles O45: a fetch that goes on has kept the client's variables, and one that ends does so for one of three causes. -/
theorem fetchEndsWithItsFirstError : Obligations.FetchEndsWithItsFirstError := by
  unfold Obligations.FetchEndsWithItsFirstError
  intro s t dst k w hs hcl hstep
  cases hs.fetchStep hcl hstep with
  | goesOn hkept hmove =>
    obtain ⟨k', w', ht⟩ := hmove.client
    refine ⟨fun hready => (nomatch ht.symm.trans hready), fun _ => ⟨hkept.cw, hkept.cpc, hkept.cresult, ?_⟩⟩
    cases hmove with
    | stays h => exact .inl (h.trans hcl.symm)
    | firstCheck h => exact .inr (.inl ⟨rfl, h⟩)
    | firstOk h hres => exact .inr (.inr (.inl ⟨rfl, rfl, h, hres⟩))
    | read h => exact .inr (.inr (.inr (.inl ⟨rfl, rfl, h⟩)))
    | readOk img es h hhistory => exact .inr (.inr (.inr (.inr (.inl ⟨rfl, rfl, h, img, es, hhistory⟩))))
    | secondCheck h => exact .inr (.inr (.inr (.inr (.inr ⟨rfl, rfl, h⟩))))
  | ends hdone hcause =>
    refine ⟨fun _ => ⟨hdone.cw, hdone.cpc, ?_⟩, fun hne => absurd hdone.client hne⟩
    cases hcause with
    | checked hres hp hbusy hcerr => exact .inl ⟨rfl, hres, hp, hbusy, hcerr⟩
    | checkFailed hk hres hcerr hend => exact .inr (.inl ⟨hk, hres, hcerr, hend⟩)
    | readFailed code es hres hcerr hhistory => exact .inr (.inr ⟨rfl, hres, code, es, hcerr, hhistory⟩)

/-! ### How far the end of a fetch is (44 R230) -/

/-- The client's call inside a fetch is the CMD8 preset, whose transfer is the buffer (44 R233). -/
theorem Consistent.read_call {s : State} (hs : Consistent s) {dst : Fin 32} (hcl : s.client = .fetching dst .three true) :
    s.port.call = some ⟨.client, sendExtCsdImg s.cfg s.cfg.bufAddr⟩ := by
  obtain ⟨-, -, -, hanswer, -⟩ := hs.sync
  obtain ⟨⟨o, img⟩, hc, ho⟩ := Option.map_eq_some_iff.mp (hanswer.mpr (by rw [hcl]; rfl))
  cases (ho : o = .client)
  have hlegal := hs.callLegal_of_call hc
  simp only [callLegal, hcl, Bool.and_eq_true, decide_eq_true_eq] at hlegal
  obtain ⟨-, himg⟩ := hlegal
  rw [hc, himg]

/-- While the CMD8 is outstanding the transport is the only agent that has a step (20 R65). -/
theorem Consistent.enabled_of_read {s : State} (hs : Consistent s) {dst : Fin 32}
    (hcl : s.client = .fetching dst .three true) : enabled s = [.transport] := by
  have hc := hs.read_call hcl
  obtain ⟨-, hphase, -⟩ := hs.sync.client_call hc
  have hclient : clientEnabled s = false := by simp [clientEnabled, hcl]
  have htransport : transportEnabled s = true := by simp [transportEnabled, hc]
  simp [enabled, hclient, htransport, pollEnabled_eq_false, timerEnabled_eq_false, hphase]

/-- The answer to the CMD8 of a buffer that lies in the address space. -/
theorem Consistent.step_of_read {s : State} (hs : Consistent s) (hf : s.fault = none)
    (hbuf : s.cfg.bufAddr.toNat + 512 ≤ 2 ^ 64) {dst : Fin 32} (hcl : s.client = .fetching dst .three true) :
    ∃ img a, step s = .next (clientTakes (setResp s.cfg img a.resp) a.err
      (answerPort img a { s with draws := s.draws + 1 })) := by
  have hc := hs.read_call hcl
  obtain ⟨-, -, -, hturn, -⟩ := stepRunsOneAgent s hf
  obtain ⟨-, -, hblocks, hblksz, hptr, -⟩ := sendExtCsdImg_fields s.cfg s.cfg.bufAddr
  refine ⟨sendExtCsdImg s.cfg s.cfg.bufAddr, drawAnswer s.cfg s.draws, ?_⟩
  rw [hturn _ (hs.enabled_of_read hcl) hc]
  refine exec_of_performs_fits hc (decodedImageIsPerformed s.cfg _) rfl fun _ => ?_
  rw [hptr, transferLen, hblocks, hblksz]
  exact hbuf

/-- The most steps a fetch still takes: those of the checks ahead, each a START and an invocation of POLL, and the CMD8 and its
answer. -/
def fetchStepsLeft (s : State) : Nat :=
  match s.client with
  | .fetching _ .one _ => 2 * (3 * Config.maxAttempts + 1) + 2
  | .fetching _ .two true => stepsLeft s.poll + 3 * Config.maxAttempts + 3
  | .fetching _ .two false => 3 * Config.maxAttempts + 3
  | .fetching _ .three true => 3 * Config.maxAttempts + 2
  | .fetching _ .three false => 3 * Config.maxAttempts + 1
  | .fetching _ .four _ => stepsLeft s.poll
  | .fetching _ .five _ | .ready | .awaitDone _ | .awaitXfer .. | .finished => 0

/-- A step inside a check brings the fetch nearer its end, as it does POLL. -/
theorem FetchStep.stepsLeft_lt {dst : Fin 32} {s t : State} {k : FStep} (h : FetchStep dst s t k true)
    (hk : k = .two ∨ k = .four) (hcl : s.client = .fetching dst k true) (hlt : stepsLeft t.poll < stepsLeft s.poll) :
    fetchStepsLeft t < fetchStepsLeft s := by
  cases h with
  | goesOn _ hmove =>
    cases hmove with
    | stays ht => rcases hk with rfl | rfl <;> simp only [fetchStepsLeft, hcl, ht] <;> omega
    | firstOk ht => simp only [fetchStepsLeft, hcl, ht]; omega
    | readOk => rcases hk with hk | hk <;> cases hk
  | ends hdone _ =>
    have ht := hdone.client
    rcases hk with rfl | rfl <;> simp only [fetchStepsLeft, hcl, ht] <;> omega

/-- The answer to the CMD8 brings the fetch nearer its end. -/
theorem fetchStepsLeft_clientTakes_lt {s : State} {dst : Fin 32} (hcl : s.client = .fetching dst .three true) (img : Image)
    (err : Option Word) : fetchStepsLeft (clientTakes img err s) < 3 * Config.maxAttempts + 2 := by
  cases err with
  | none => rw [clientTakes_read_ok hcl]; simp only [fetchStepsLeft]; omega
  | some code => rw [clientTakes_read_failed hcl]; simp only [fetchStepsLeft, finishFetch_client]; omega

/-- START gives an invocation all its attempts. -/
theorem stepsLeft_started (arg : Option Word) (pdesc : Option Image) :
    stepsLeft ⟨.checking, .issue, 0, arg, none, .none, none, pdesc⟩ = 3 * Config.maxAttempts := rfl

section
variable {s : State} (hs : Consistent s) (hf : s.fault = none) (hr : s.refused = none)
include hs hf hr

/-- A fetch that waits for a check advances with POLL. -/
theorem Consistent.check_advances {dst : Fin 32} {k : FStep} (hk : k = .two ∨ k = .four)
    (hcl : s.client = .fetching dst k true) :
    ∃ t, step s = .next t ∧ t.fault = none ∧ t.refused = none ∧ fetchStepsLeft t < fetchStepsLeft s := by
  obtain ⟨-, hchecking, -⟩ := hs.sync
  have hdone : awaitsDone s.client = true := by rw [hcl]; rcases hk with rfl | rfl <;> rfl
  obtain ⟨t, hstep, hf', hr', hlt, -⟩ := hs.step_advances (hchecking.mpr hdone) hf hr
  exact ⟨t, hstep, hf', hr', (hs.fetchStep hcl hstep).stepsLeft_lt hk hcl hlt⟩

/-- A fetch in progress has a step; it raises no fault, is refused nothing, and brings the fetch nearer its end. -/
theorem Consistent.fetch_advances (hrange : s.cfg.inRange = true) (hbuf : s.cfg.bufAddr.toNat + 512 ≤ 2 ^ 64) {dst : Fin 32}
    {k : FStep} {w : Bool} (hcl : s.client = .fetching dst k w) :
    ∃ t, step s = .next t ∧ t.fault = none ∧ t.refused = none ∧ fetchStepsLeft t < fetchStepsLeft s := by
  obtain ⟨halign, -⟩ := (inRange_iff s.cfg).mp hrange
  obtain ⟨-, -, -, -, hplace⟩ := hs.sync
  rw [hcl] at hplace
  cases k with
  | one =>
    cases w with
    | true => cases hplace
    | false =>
      refine ⟨_, hs.step_of_fetch_one hf hr hcl, hf, hr, ?_⟩
      simp only [fetchStepsLeft, hcl, stepsLeft_started]
      omega
  | two =>
    cases w with
    | true => exact hs.check_advances hf hr (.inl rfl) hcl
    | false =>
      refine ⟨_, hs.step_of_fetch_two hf hr halign hcl, hf, hr, ?_⟩
      simp only [fetchStepsLeft, hcl]
      omega
  | three =>
    cases w with
    | true =>
      obtain ⟨img, a, hstep⟩ := hs.step_of_read hf hbuf hcl
      refine ⟨_, hstep, by simpa using hf, by simpa using hr, ?_⟩
      have hlt := fetchStepsLeft_clientTakes_lt (s := answerPort img a { s with draws := s.draws + 1 }) hcl
        (setResp s.cfg img a.resp) a.err
      simpa only [fetchStepsLeft, hcl] using hlt
    | false =>
      refine ⟨_, hs.step_of_fetch_three hf hr hcl, hf, hr, ?_⟩
      simp only [fetchStepsLeft, hcl, stepsLeft_started]
      omega
  | four =>
    cases w with
    | true => exact hs.check_advances hf hr (.inr rfl) hcl
    | false => cases hplace
  | five => cases w <;> cases hplace

/-- A fetch in progress ends within the steps that are left, by induction on them. -/
theorem Consistent.fetch_ends (hrange : s.cfg.inRange = true) (hbuf : s.cfg.bufAddr.toNat + 512 ≤ 2 ^ 64) {dst : Fin 32}
    {k : FStep} {w : Bool} (hcl : s.client = .fetching dst k w) :
    ∃ n t, n ≤ fetchStepsLeft s ∧ core.run n s = .next t ∧ FetchDone dst s t ∧ t.fault = none ∧
      (t.cresult = .ok ∨ t.cresult = .timeout ∨ t.cresult = .transport) := by
  induction h : fetchStepsLeft s using Nat.strong_induction_on generalizing s k w with
  | _ m ih =>
    obtain ⟨t, hstep, hf', hr', hlt⟩ := hs.fetch_advances hf hr hrange hbuf hcl
    cases hs.fetchStep hcl hstep with
    | ends hdone hcause => exact ⟨1, t, by omega, run_succ 0 s t hstep, hdone, hf', hcause.result⟩
    | goesOn hkept hmove =>
      obtain ⟨k', w', hcl'⟩ := hmove.client
      obtain ⟨hcfg, -⟩ := configurationProgramAndPastAreKept s t hstep
      obtain ⟨n, u, hn, hrun, hdone, hu⟩ := ih (fetchStepsLeft t) (h ▸ hlt) (everyStepKeepsConsistent s t hs hstep) hf' hr'
        (hcfg ▸ hrange) (hcfg ▸ hbuf) hcl' rfl
      exact ⟨n + 1, u, by omega, (run_succ n s t hstep).trans hrun, hkept.done hdone, hu⟩

end

/-- Settles O46: the steps left at FSTEP = 1 are those of both checks, the CMD8 and its answer. -/
theorem fetchTerminates : Obligations.FetchTerminates := by
  unfold Obligations.FetchTerminates
  intro s dst hs hrange hcl hf hr hbuf
  obtain ⟨n, t, hn, hrun, hdone, hf', hres⟩ := hs.fetch_ends hf hr hrange hbuf hcl
  simp only [fetchStepsLeft, hcl] at hn
  exact ⟨n, t, hn, hrun, hdone.client, hf', hdone.cpc, hdone.cw, hres⟩

end Sys2Proof.Machine
end

section
/-! Proofs of the statements on faults and refusals (60 R243, R246, R254, R264). FAULT is written by two kinds of step and REFUSED
by one, and none of them writes anything else but the history; a request reads its operands before any effect. -/

namespace Sys2Proof.Machine

/-! ### What a step does to FAULT (60 R243, R254) -/

theorem StepKind.raises_or_fault_kept {s t : State} (h : StepKind s t) :
    (∃ f d, t = raise f { s with draws := d }) ∨ t.fault = s.fault := by
  cases h with
  | fault f e => exact .inl ⟨f, s.draws, e⟩
  | answerFault f e => exact .inl ⟨f, s.draws + 1, e⟩
  | ends _ _ hl => exact .inr hl.fault
  | answer call a _ _ e => subst e; cases call.owner <;> simp
  | timer out _ _ _ e => subst e; simp
  | _ => rename_i e; subst e; exact .inr rfl

/-- Settles O52: the step began without a fault, so it is one of the two kinds that raise. -/
theorem faultsArePrecise : Obligations.FaultsArePrecise := by
  unfold Obligations.FaultsArePrecise
  intro s t f hstep ht
  obtain ⟨hs, d, hk⟩ := step_kind s t hstep
  rcases hk.raises_or_fault_kept with ⟨g, d', rfl⟩ | hkept
  · cases ht
    rfl
  · rw [hkept, hs] at ht
    cases ht

theorem step_of_fault {s : State} {f : Fault} (h : s.fault = some f) : step s = .fault f := by
  simp only [step_eq, plan, h, carryOut]

theorem endsWell_iff (s : State) :
    endsWell s = true ↔ s.client = .finished ∧ s.poll.pstate ≠ .checking ∧ s.port.call = none ∧ s.poll.phase ≠ .delay ∧
      s.fault = none ∧ s.refused = none :=
  decide_eq_true_iff

theorem fault_none_of_endsWell {s : State} (h : endsWell s = true) : s.fault = none := by
  obtain ⟨-, -, -, -, hfault, -⟩ := (endsWell_iff s).mp h
  exact hfault

theorem refused_none_of_endsWell {s : State} (h : endsWell s = true) : s.refused = none := by
  obtain ⟨-, -, -, -, -, hrefused⟩ := (endsWell_iff s).mp h
  exact hrefused

/-- Settles O51: the plan of a faulted state is its fault, and a step that records one is precise. -/
theorem faultsEndTheRun : Obligations.FaultsEndTheRun := by
  unfold Obligations.FaultsEndTheRun
  refine ⟨fun s f h => ⟨step_of_fault h, ?notWell⟩, fun s t f hstep ht => ⟨(step_kind s t hstep).1, ?history⟩⟩
  case notWell =>
    refine Bool.eq_false_iff.mpr fun hwell => ?_
    cases h.symm.trans (fault_none_of_endsWell hwell)
  case history => exact congrArg State.history (faultsArePrecise s t f hstep ht)

/-! ### What a step does to REFUSED (60 R264) -/

/-- Only the client is refused: POLL's own command is no write (42 R166). -/
theorem StepKind.refuses_or_refused_kept {s t : State} (h : StepKind s t) :
    (∃ img, s.port.call = none ∧ writeFlagOf s.cfg img ≠ 0 ∧ t = refuseWrite .client img s) ∨ t.refused = s.refused := by
  cases h with
  | refuse img _ hcall hwrite e => exact .inl ⟨img, hcall, hwrite, e⟩
  | ends _ _ hl => exact .inr hl.refused
  | answer call a _ _ e => subst e; cases call.owner <;> simp
  | timer out _ _ _ e => subst e; simp
  | _ => rename_i e; subst e; exact .inr rfl

theorem step_refuses_or_refused_kept {s t : State} (h : step s = .next t) :
    (∃ img d, s.port.call = none ∧ writeFlagOf s.cfg img ≠ 0 ∧ t = refuseWrite .client img { s with draws := d }) ∨
      t.refused = s.refused := by
  obtain ⟨-, d, hk⟩ := step_kind s t h
  exact hk.refuses_or_refused_kept.imp_left fun ⟨img, hrefuse⟩ => ⟨img, d, hrefuse⟩

theorem client_not_mem_enabled_of_refused {s : State} (h : s.refused = some (.writePathRefused .client)) :
    .client ∉ enabled s := by
  intro hmem
  have hen : clientEnabled s = true := enabled_mem .client s hmem
  simp [clientEnabled, isRefused, h] at hen

theorem poll_not_mem_enabled_of_refused {s : State} (h : s.refused = some (.writePathRefused .poll)) :
    .poll ∉ enabled s := by
  intro hmem
  have hen : pollEnabled s = true := enabled_mem .poll s hmem
  simp [pollEnabled, isRefused, h] at hen

/-- Settles O53: a step that refuses a write changes nothing else, any other keeps the mark, and a marked agent is not enabled. -/
theorem refusedWritesEndTheAgent : Obligations.RefusedWritesEndTheAgent := by
  unfold Obligations.RefusedWritesEndTheAgent
  refine ⟨fun s t m hstep hs ht => ?refuses, fun s t hstep hs => ?keeps, fun s t hstep hs => ?keepsClient, fun s =>
    ⟨client_not_mem_enabled_of_refused, poll_not_mem_enabled_of_refused, fun h => ?notWell⟩⟩
  case refuses =>
    rcases step_refuses_or_refused_kept hstep with ⟨img, d, hcall, hwrite, rfl⟩ | hkept
    · cases ht
      exact ⟨.client, img, rfl, hwrite, hcall, rfl⟩
    · rw [hkept, hs] at ht
      cases ht
  case keeps =>
    rcases step_refuses_or_refused_kept hstep with ⟨img, d, -, -, rfl⟩ | hkept
    · rfl
    · rw [hkept, hs]
  case keepsClient =>
    rcases step_refuses_or_refused_kept hstep with ⟨img, d, -, -, rfl⟩ | hkept
    · exact hs.symm
    · exact hkept
  case notWell =>
    refine Bool.eq_false_iff.mpr fun hwell => ?_
    rw [refused_none_of_endsWell hwell] at h
    cases h

/-! ### Reading what holds no value (60 R246) -/

theorem withByte_of_none {a : Nat} {s : State} (h : memByte s.mem a = none) (k : Byte → State → State) :
    withByte a k s = raise (.unwrittenRead (.byte a)) s := by
  simp only [withByte, h]

/-- The read of a word names the first byte, from the lowest address up, that holds no value (log 18). -/
theorem withMem32_of_unwritten {a n : Nat} {s : State} (ha : a + 4 ≤ 2 ^ 64) (hn : n < 4)
    (hlow : ∀ j, j < n → memByte s.mem (a + j) ≠ none) (h : memByte s.mem (a + n) = none) (k : Word → State → State) :
    withMem32 a k s = raise (.unwrittenRead (.byte (a + n))) s := by
  have hok : addrOk a 4 = true := decide_eq_true ha
  have hread : ∀ j, j < n → ∃ b, memByte s.mem (a + j) = some b := fun j hj => Option.ne_none_iff_exists'.mp (hlow j hj)
  rw [withMem32, if_pos hok]
  match n, hn with
  | 0, _ => exact withByte_of_none h _
  | 1, _ =>
    obtain ⟨b0, h0⟩ := hread 0 (by decide)
    rw [withByte_of_some (a := a) h0, withByte_of_none h]
  | 2, _ =>
    obtain ⟨b0, h0⟩ := hread 0 (by decide)
    obtain ⟨b1, h1⟩ := hread 1 (by decide)
    rw [withByte_of_some (a := a) h0, withByte_of_some h1, withByte_of_none h]
  | 3, _ =>
    obtain ⟨b0, h0⟩ := hread 0 (by decide)
    obtain ⟨b1, h1⟩ := hread 1 (by decide)
    obtain ⟨b2, h2⟩ := hread 2 (by decide)
    rw [withByte_of_some (a := a) h0, withByte_of_some h1, withByte_of_some h2, withByte_of_none h]

theorem readBuf_wellFormed_iff (dst : Fin 32) (off : Word) :
    (Instr.readBuf dst off).wellFormed = true ↔ off.toNat % 4 = 0 ∧ off.toNat ≤ 508 :=
  decide_eq_true_iff

/-- Settles O41: a request reads its operands before any effect; those of UNPACK and READ_STATUS are read so by O14 and O30. -/
theorem unwrittenReadsFault : Obligations.UnwrittenReadsFault := by
  unfold Obligations.UnwrittenReadsFault
  refine fun s => ⟨fun src dst target h => ?cw, fun src dst d addr x y h => ?cd, fun d n h => ?reg,
    fun d off n halign hle ha hn hlow h => ?byte⟩
  case cw =>
    exact ⟨congrArg _ (withCw_of_none h _), congrArg _ (withCw_of_none h _), congrArg _ (withCw_of_none h _),
      congrArg _ (withCw_of_none h _), congrArg _ (withCw_of_none h _)⟩
  case cd =>
    obtain ⟨hunpack, -, -⟩ := unpackCompletes
    exact ⟨congrArg _ (withCd_of_none h _), congrArg _ (withCd_of_none h _), congrArg _ (withCd_of_none h _),
      fun hd => hunpack s d src hd h⟩
  case reg =>
    obtain ⟨-, -, hunwritten⟩ := readStatusCompletes s d
    exact hunwritten n h
  case byte =>
    rw [exec, execReadBuf, ifLegal_of_wellFormed ((readBuf_wellFormed_iff d off).mpr ⟨halign, hle⟩),
      withMem32_of_unwritten ha hn hlow h]

end Sys2Proof.Machine
end

section
/-! Proofs of the statements on reset and hazards (70 R271, R286). A call becomes outstanding only by passing the checks of
admission, so the hazards the port guards are facts about each of its calls. -/

namespace Sys2Proof.Machine

/-! ### The hazard of a busy device (70 R286; 43 R203) -/

/-- Only the client's submission and POLL's ISSUE make a call outstanding, and both pass the checks of admission. -/
theorem Transaction.admissible_of_new_call {s t : State} (h : Transaction s t) {call : Call} (hfree : s.port.call = none)
    (hcall : t.port.call = some call) : Admissible s.cfg s.port call.image := by
  cases h with
  | submit img _ hadm _ hport | issue _ _ _ _ hadm _ hport =>
    rw [hport] at hcall
    cases hcall
    exact hadm
  | quiet _ _ hport | start _ _ _ _ hport | refused _ _ _ _ _ hport | dlyNext _ _ _ _ hport | dlyLast _ _ _ _ hport =>
    rw [hport, hfree] at hcall
    cases hcall
  | answered _ _ hc | rspErr _ _ _ hc | rspReady _ _ hc | rspBusy _ _ hc | rspLast _ _ hc =>
    cases hfree.symm.trans hc

/-- The check of 43 R203, read from BUSY_HAZARD. -/
theorem Admissible.sendStatus_of_busy {c : Params} {p : PortState} {img : Image} (h : Admissible c p img)
    (hbusy : p.busyHazard = true) : opcodeOf c img = Config.opcSendStatus := by
  by_contra hop
  cases hbusy.symm.trans (h.clear hop)

/-- Settles O35: a new call passed the checks of admission. -/
theorem onlyStatusCommandsWhileBusy : Obligations.OnlyStatusCommandsWhileBusy := by
  unfold Obligations.OnlyStatusCommandsWhileBusy
  intro s t call hstep hfree hcall
  have hadm : Admissible s.cfg s.port call.image := (step_transaction s t hstep).admissible_of_new_call hfree hcall
  exact ⟨hadm.sendStatus_of_busy, hadm.read⟩

/-! ### Reset (70 R271) -/

/-- No variable of the client holds a value after reset (10 R34). -/
theorem resetWith_variables_unwritten (c : Params) :
    (∀ i : Fin 16, (resetWith c).cd[i] = none) ∧ ∀ i : Fin 32, (resetWith c).cw[i] = none :=
  ⟨fun i => Vector.getElem_replicate i.isLt, fun i => Vector.getElem_replicate i.isLt⟩

/-- Settles O47: the client's variables read no value, and the rest is what `resetWith` writes. -/
theorem resetValues : Obligations.ResetValues := by
  unfold Obligations.ResetValues
  refine ⟨fun c s hs => ?values, Config.params, rfl⟩
  subst hs
  obtain ⟨hcd, hcw⟩ := resetWith_variables_unwritten c
  exact ⟨rfl, rfl, rfl, rfl, rfl, rfl, rfl, rfl, rfl, rfl, hcd, hcw, rfl, rfl, rfl, rfl, memByte_nil, rfl, rfl, rfl, rfl, rfl⟩

end Sys2Proof.Machine
end
